-- ==== Sys2Proof/Word.lean ====
section
/-! DEFINITION. The widths of the block's values (00_scope.md R8): a byte, a 32-bit field, the received length, and the
frame seen as the 32 bytes `B[0]` to `B[31]`. Nothing in the block is signed. -/

namespace Sys2Proof

/-- `u8`: 8 bits, 0 to 255 (R8). -/
abbrev Byte := BitVec 8

/-- `u32`: 32 bits, 0 to 4294967295 (R8). -/
abbrev U32 := BitVec 32

/-- The operand `n`, `N_WIDTH` = 6 bits, 0 to 63 (R6, R15). -/
abbrev Len := BitVec 6

/-- The frame operand as the function `o ↦ B[o]`; the offsets are exactly 0 to 31 (R14, R27). It is a view that
functions take as an argument; the state holds the bytes as plain data. -/
abbrev Frame := Fin 32 → Byte

end Sys2Proof
end

