-- ==== Sys2Proof/Config.lean ====
section
/-! DEFINITION. The constants of the design (00_scope.md R6), the build parameter `TRUNC_POLICY`, and the one free value
of the model: what an output port carries while it is not part of the observation. -/

namespace Sys2Proof

/-- `TRUNC_POLICY` (R6, R100): what a known-tag frame with `n < 32` does. -/
inductive TruncPolicy where
  /-- Decode it exactly like a full frame: the default. -/
  | preserve
  /-- Yield `TruncatedPayload` in place of a record. -/
  | fault
deriving DecidableEq, Repr

/-- `TAG_ENV` = 0x00 (R6). -/
def Config.tagEnv : Byte := 0x00#8

/-- `TAG_BAL` = 0x01 (R6). -/
def Config.tagBal : Byte := 0x01#8

/-- `TAG_SYS` = 0x0F (R6). -/
def Config.tagSys : Byte := 0x0F#8

/-- The value of an output port outside its "meaningful when" column, and of every output but `out_valid` while no
transaction is presented (10_state.md R30, 93_implementation_defined.md U6: any value). It has no body, so nothing can be
proved about it. It is applied to the whole state (`σ` is `Machine.State`), the operands and the draw counter among its
fields: a design that decodes everything and selects afterwards lets the operands show, and each step may show another
value. Assumption 10. -/
opaque Config.freePort (σ : Type) (width port : Nat) (s : σ) : BitVec width

end Sys2Proof
end

