-- ==== Sys2Proof/Syntax.lean ====
section
/-! DEFINITION. The instruction set: the four operations that a type tag selects, one constructor per row of
spec/opcode_table.json (00_scope.md R7, 30_encoding.md R49). -/

namespace Sys2Proof

/-- What the tag byte of a transaction selects. The frame's payload bytes are operands at fixed offsets of the frame and
are read by the meanings; the tag has no sub-fields (R50), so only UNK carries bits of it. -/
inductive Instr where
  /-- ENV: decode an Environment frame, tag 0x00 (R83). -/
  | env
  /-- BAL: decode a Ballast frame, tag 0x01 (R88). -/
  | bal
  /-- SYS: decode a System frame, tag 0x0F (R92). -/
  | sys
  /-- UNK: report a tag that is none of the three (R68). -/
  | unk (tag : Byte)
deriving DecidableEq, Repr

end Sys2Proof
end

