-- ==== Sys2Proof/WellFormed.lean ====
section
/-! DEFINITION. Which instructions a frame can select: UNK's tag is never one of the three known tags
(10_state.md R21, 30_encoding.md R51). -/

namespace Sys2Proof

/-- The three known tags, 0x00, 0x01 and 0x0F (00_scope.md, glossary "known tag"). -/
def knownTags : List Byte := [Config.tagEnv, Config.tagBal, Config.tagSys]

/-- A tag is known when it equals, in all eight bits, one of the three (R50). -/
def isKnownTag (tag : Byte) : Bool := knownTags.contains tag

/-- ENV, BAL and SYS are always well formed; UNK is when its tag is unknown. -/
def Instr.wellFormed : Instr → Bool
  | .env => true
  | .bal => true
  | .sys => true
  | .unk tag => !isKnownTag tag

end Sys2Proof
end

