-- ==== Sys2Proof/Decode.lean ====
section
/-! DEFINITION. From a transaction `(frame, n)` to the operation its tag selects: the length checks (40_dispatch.md R65
lines 1 and 2), TAGSEL (R66) and CLASSIFY (R67); the encoder; the opcode table as data (30_encoding.md R64). -/

namespace Sys2Proof

/-- Why no tag can be located: the two lengths outside the contract (30_encoding.md R61). -/
inductive DecodeError where
  /-- `n = 0` (R98): safe, the step delivers the outcome `ShortFrame`. -/
  | shortFrame
  /-- `n > 32` (R101): safe, the step delivers the outcome `LengthOutOfRange`. -/
  | lengthOutOfRange (n : Len)
deriving DecidableEq, Repr

/-- TAGSEL (R66, R48): the byte at offset `n - 1`. It is evaluated only for `1 ≤ n ≤ 32`, so the offset is in 0 to 31
(20_memory.md R40). -/
def tagsel (B : Frame) (n : Len) (lower : 1 ≤ n.toNat) (upper : n.toNat ≤ 32) : Byte :=
  B ⟨n.toNat - 1, by omega⟩

/-- CLASSIFY (R67, R49): the whole tag byte is compared with the three constants; every other value is UNK. -/
def classify (tag : Byte) : Instr :=
  if tag = Config.tagEnv then .env
  else if tag = Config.tagBal then .bal
  else if tag = Config.tagSys then .sys
  else .unk tag

/-- The decoder: total on every frame and every `n`; it refuses by name the two lengths that locate no tag. -/
def decode (B : Frame) (n : Len) : Except DecodeError Instr :=
  if h0 : n.toNat = 0 then .error .shortFrame
  else if h32 : 32 < n.toNat then .error (.lengthOutOfRange n)
  else .ok (classify (tagsel B n (by omega) (by omega)))

/-- The tag byte of an instruction (30_encoding.md R49). -/
def encode : Instr → Byte
  | .env => Config.tagEnv
  | .bal => Config.tagBal
  | .sys => Config.tagSys
  | .unk tag => tag

/-- One row of the opcode table: it matches a tag when `tag AND mask = pattern` (R64). -/
structure OpcodeRow where
  mnemonic : String
  pattern : Byte
  mask : Byte
deriving DecidableEq, Repr

/-- Does the row match the tag (R64)? -/
def OpcodeRow.accepts (row : OpcodeRow) (tag : Byte) : Bool := (tag &&& row.mask) == row.pattern

/-- The four rows in the order a decoder tries them; UNK, of lowest priority, matches every byte and stands last (R64). -/
def opcodeRows : List OpcodeRow :=
  [{ mnemonic := "ENV", pattern := 0x00#8, mask := 0xFF#8 },
   { mnemonic := "BAL", pattern := 0x01#8, mask := 0xFF#8 },
   { mnemonic := "SYS", pattern := 0x0F#8, mask := 0xFF#8 },
   { mnemonic := "UNK", pattern := 0x00#8, mask := 0x00#8 }]

/-- The mnemonic of an instruction's row (00_scope.md R7). -/
def Instr.mnemonic : Instr → String
  | .env => "ENV"
  | .bal => "BAL"
  | .sys => "SYS"
  | .unk _ => "UNK"

/-- The tag byte in a table word: the low eight of its `nbits` bits, bit 0 the least significant. -/
def tableTag (nbits w : Nat) : Byte := BitVec.ofNat 8 (w % 2 ^ nbits)

/-- The full frame (`n = 32`) that carries a tag at offset 31 and zeros elsewhere: how a table word is laid out.
Assumption 13. -/
def tableFrame (tag : Byte) : Frame := fun o => if o = 31 then tag else 0x00#8

/-- What the decoder reads from an opcode-table word: the tag of a full frame. -/
def decodeTableWord (nbits w : Nat) : Option Instr :=
  match decode (tableFrame (tableTag nbits w)) 32#6 with
  | .ok i => some i
  | .error _ => none

end Sys2Proof
end

