-- ==== Sys2Proof/Machine/State.lean ====
section
/-! DEFINITION. The state as plain data. The block itself holds nothing between transactions (10_state.md R13): every
field below is an input of the current transaction (R14, R15, R30), the Channel Reader's further transactions (00_scope.md
R12), the outcomes the sink has received (R12, 70_reset_and_hazards.md R128), the build parameter (R26), or the model's own
counter. Assumption 1 says so. -/

namespace Sys2Proof.Machine

/-- The frame buffer: (offset, byte) pairs in one canonical form (`Memory.wf`): offsets strictly rising, all below 32, and
no entry for a byte that reads as an unlisted one does. Every 32-byte frame has exactly one such list. Assumption 2. -/
abbrev Memory := List Host.Cell

/-- The two operands of a transaction (30_encoding.md R47). -/
structure Operands where
  frame : Memory
  n : Len
deriving DecidableEq, Repr

/-- One presentation of `(frame, n)` by the Channel Reader. `redriven` lists what the reader drives on the operand ports
later while `in_valid` stays 1 for this same transaction: nothing, or the same values again, for a reader that meets its
obligation (R120). -/
structure Transaction where
  frame : Memory
  n : Len
  redriven : List Operands := []
deriving DecidableEq, Repr

/-- The record of an Environment frame (R17). -/
structure EnvironmentTelemetry where
  internalTemperatureC : Byte
  internalHumidityPercent : Byte
  isStale : Bool
deriving DecidableEq, Repr

/-- The record of a System frame (R18). -/
structure SystemTelemetry where
  tickDelta : U32
  tickIdleTime : U32
  totalTickTime : U32
deriving DecidableEq, Repr

/-- The record of a Ballast frame (R19). -/
structure BallastTelemetry where
  currentState : Byte
  targetState : Byte
deriving DecidableEq, Repr

/-- The outcome of a transaction (R21): the three records with their tick counter (R20), and the four outcomes that are
not records (60_exceptions.md R97). -/
inductive FrameOutcome where
  | env (record : EnvironmentTelemetry) (tick : U32)
  | bal (record : BallastTelemetry) (tick : U32)
  | sys (record : SystemTelemetry) (tick : U32)
  /-- The tag is none of 0x00, 0x01, 0x0F; the raw byte and nothing else (R99). -/
  | unrecognizedTag (tag : Byte)
  /-- `n = 0` (R98). -/
  | shortFrame
  /-- `n > 32` (R101). -/
  | lengthOutOfRange (n : Len)
  /-- A known tag with `n < 32`, only under `TRUNC_POLICY = FAULT` (R100). -/
  | truncatedPayload (n : Len) (tag : Byte)
deriving DecidableEq, Repr

/-- The machine's state. -/
structure State where
  /-- Port `in_valid` (R30): a transaction is presented. -/
  inValid : Bool
  /-- Port `frame` (R14, R30): the 32 bytes presented. -/
  frame : Memory
  /-- Port `rx_len` (R15, R30): `n`. -/
  rxLen : Len
  /-- What the reader drives on the operand ports later during the same transaction (R120). -/
  redriven : List Operands
  /-- The transactions the Channel Reader presents after this one, in its order (R12, R24). -/
  queue : List Transaction
  /-- The outcomes delivered to the sink, oldest first (R12, R128). -/
  delivered : List FrameOutcome
  /-- The build parameter `TRUNC_POLICY`, which no step changes (R26, R115). -/
  truncPolicy : TruncPolicy
  /-- The MODEL's own counter: it advances at every step and picks the free values of `Config.freePort`. -/
  draw : Nat
deriving DecidableEq, Repr

/-- The block has no fault: a transaction always has an outcome (R11), an outcome that is not a record does not stop the
block (R106), and no access can leave the buffer (R40, R102). So the type has no constructor. -/
inductive Fault
deriving DecidableEq, Repr

/-- Why a step gives a run no meaning. -/
inductive Refusal where
  /-- Raised by `exec` for an instruction that has no meaning yet (none is left). Safe. -/
  | notModelled (mnemonic : String)
  /-- Raised by `step` when the reader changes the operands during a transaction: the spec gives such a run no meaning
  and asks a model to refuse it (R120, 93_implementation_defined.md U5). Safe. -/
  | operandsChanged
deriving DecidableEq, Repr

/-- After reset nothing is presented and nothing has been delivered; the block has no reset value to state (R29, R113).
`TRUNC_POLICY` has its default (R6). The values on the operand ports are the model's (assumption 3). -/
def State.reset : State where
  inValid := false
  frame := []
  rxLen := 0#6
  redriven := []
  queue := []
  delivered := []
  truncPolicy := .preserve
  draw := 0

end Sys2Proof.Machine
end

