-- ==== Sys2Proof/Machine/Ops.lean ====
section
/-! DEFINITION. The named operations: reading and writing one byte of the frame buffer, presenting a transaction,
delivering an outcome, raising an outcome that is not a record (60_exceptions.md R105), and the hand-over to the reader's
next transaction. There is no return from a raised outcome: nothing was saved (R108). -/

namespace Sys2Proof.Machine

/-! ### The frame buffer -/

/-- What an offset without an entry reads as. Assumption 2. -/
def Memory.unlisted : Byte := 0x00#8

/-- The byte at an offset: `MemRead(o, 1)` (20_memory.md R32). Reading changes nothing (R38). -/
def Memory.read : Memory → Fin 32 → Byte
  | [], _ => Memory.unlisted
  | (a, b) :: rest, o => if a = o.val then b else Memory.read rest o

/-- Put a byte at an offset, keeping the canonical form. The block never does this (R31); the Channel Reader fills its
buffer, and the frame notation builds one (30_encoding.md R63). -/
def Memory.write : Memory → Fin 32 → Byte → Memory
  | [], o, b => if b = Memory.unlisted then [] else [(o.val, b)]
  | (a, c) :: rest, o, b =>
    if o.val < a then
      if b = Memory.unlisted then (a, c) :: rest else (o.val, b) :: (a, c) :: rest
    else if o.val = a then
      if b = Memory.unlisted then rest else (o.val, b) :: rest
    else (a, c) :: Memory.write rest o b

/-- The list is canonical from offset `low` on. -/
def Memory.wfFrom : Nat → Memory → Bool
  | _, [] => true
  | low, (a, b) :: rest => decide (low ≤ a) && decide (a < 32) && b != Memory.unlisted && Memory.wfFrom (a + 1) rest

/-- The canonical form: offsets strictly rising and below 32, no entry equal to what an unlisted offset reads as. -/
def Memory.wf (m : Memory) : Bool := Memory.wfFrom 0 m

/-- The frame `o ↦ B[o]` that a buffer holds. -/
def Memory.view (m : Memory) : Frame := fun o => m.read o

/-- The bytes `B[0]` to `B[31]` of the transaction presented (R14). -/
def State.B (s : State) : Frame := s.frame.view

/-! ### Transactions and outcomes -/

/-- Put a transaction on the operand ports and raise `in_valid` (10_state.md R30). -/
def State.present (s : State) (t : Transaction) : State :=
  { s with inValid := true, frame := t.frame, rxLen := t.n, redriven := t.redriven }

/-- The operands as the ports first show them. -/
def State.operands (s : State) : Operands := { frame := s.frame, n := s.rxLen }

/-- The reader's obligation R120: the operands never change during the transaction. -/
def State.held (s : State) : Bool := s.redriven.all (fun o => o == s.operands)

/-- One more outcome reaches the sink (R105, 70_reset_and_hazards.md R128); nothing else changes. -/
def State.deliver (s : State) (o : FrameOutcome) : State :=
  { s with delivered := s.delivered ++ [o] }

/-- `out <- Ctor` (00_scope.md R9): the transaction's outcome is this record. -/
def setOut (o : FrameOutcome) (s : State) : Host.Outcome State Fault Refusal := .next (s.deliver o)

/-- `raise` (R9, R105, R106): the transaction's outcome is this one, which is not a record, delivered to the same sink.
Nothing is saved, no mode changes, control goes nowhere, and the block goes on. -/
def raise (o : FrameOutcome) (s : State) : Host.Outcome State Fault Refusal := .next (s.deliver o)

/-- The transaction is over: the reader presents its next one, or, if it has none, lowers `in_valid` (R12, R128). The
operand ports keep their values while nothing is presented (assumption 11). -/
def State.advance (s : State) : State :=
  match s.queue with
  | [] => { s with inValid := false, draw := s.draw + 1 }
  | t :: later => { s.present t with queue := later, draw := s.draw + 1 }

/-- What a step does around the instruction: after its outcome is delivered, the hand-over to the next transaction. -/
def finish : Host.Outcome State Fault Refusal → Host.Outcome State Fault Refusal
  | .next t => .next t.advance
  | .fault r => .fault r
  | .refused r => .refused r

/-- The outcome of a transaction whose tag cannot be located (40_dispatch.md R65 lines 1 and 2). -/
def lengthOutcome : DecodeError → FrameOutcome
  | .shortFrame => .shortFrame
  | .lengthOutOfRange n => .lengthOutOfRange n

end Sys2Proof.Machine
end

