-- ==== Sys2Proof/Machine/Operands.lean ====
section
/-! DEFINITION. The operand forms: the extractors U8, LE32 and TICK at fixed offsets (41_field_extract.md R73, R74, R76,
R81) and the offsets themselves (30_encoding.md R58). The length-relative form TAGSEL stands in Decode.lean. -/

namespace Sys2Proof.Machine

/-- U8 (R73): the byte at a fixed offset, unchanged. -/
def u8 (B : Frame) (o : Fin 32) : Byte := B o

/-- LE32 (R74, 20_memory.md R32): four consecutive bytes, the lowest offset least significant. The offset is at most 28,
so all four lie in the frame; no alignment is asked for (R35). -/
def le32 (B : Frame) (o : Fin 29) : U32 :=
  B ⟨o.val + 3, by omega⟩ ++ B ⟨o.val + 2, by omega⟩ ++ B ⟨o.val + 1, by omega⟩ ++ B ⟨o.val, by omega⟩

/-- `TICK_OFFSET` = 27, the offset of the tick counter's lowest byte (00_scope.md R6, 90_conflicts.md C1). -/
def tickOffset : Fin 29 := 27

/-- TICK (R76): the tick counter, `LE32(27)`, whatever the tag and `n` are. -/
def tick (B : Frame) : U32 := le32 B tickOffset

/-- Offset of `internal_temperature_c` (R17). -/
def temperatureOffset : Fin 32 := 0

/-- Offset of `internal_humidity_percent` (R17). -/
def humidityOffset : Fin 32 := 1

/-- Offset of the byte `is_stale` is derived from (R17). -/
def staleOffset : Fin 32 := 2

/-- Offset of `current_state` (R19). -/
def currentStateOffset : Fin 32 := 0

/-- Offset of `target_state` (R19). -/
def targetStateOffset : Fin 32 := 1

/-- Offset of `tick_delta` (R18). -/
def tickDeltaOffset : Fin 29 := 0

/-- Offset of `tick_idle_time` (R18). -/
def tickIdleTimeOffset : Fin 29 := 4

/-- Offset of `total_tick_time` (R18). -/
def totalTickTimeOffset : Fin 29 := 8

end Sys2Proof.Machine
end

