-- ==== Sys2Proof/Machine/Flags.lean ====
section
/-! DEFINITION. What plays the part of flags (10_state.md R25): the derived predicate STALE, and the outcome's kind. Neither
is stored and no operation writes a flag beside its result. -/

namespace Sys2Proof.Machine

/-- STALE (41_field_extract.md R75): the unsigned comparison `B[o] < 1`, which is `B[o] == 0`. -/
def stale (B : Frame) (o : Fin 32) : Bool := decide (B o < 1#8)

/-- The port-level code of an outcome's constructor (10_state.md R30, 60_exceptions.md R97); 7 is never produced. -/
def FrameOutcome.kind : FrameOutcome → BitVec 3
  | .env _ _ => 0#3
  | .bal _ _ => 1#3
  | .sys _ _ => 2#3
  | .unrecognizedTag _ => 3#3
  | .shortFrame => 4#3
  | .lengthOutOfRange _ => 5#3
  | .truncatedPayload _ _ => 6#3

/-- Is the outcome a decoded record (R97)? -/
def FrameOutcome.isRecord : FrameOutcome → Bool
  | .env _ _ => true
  | .bal _ _ => true
  | .sys _ _ => true
  | .unrecognizedTag _ => false
  | .shortFrame => false
  | .lengthOutOfRange _ => false
  | .truncatedPayload _ _ => false

end Sys2Proof.Machine
end

