-- ==== Sys2Proof/Machine/Known.lean ====
section
/-! DEFINITION. What the three operations with a known tag share: the truncation check (40_dispatch.md R65 line 5) and the
tick counter (line 6), before the operation's own record (line 7). -/

namespace Sys2Proof.Machine

/-- Does `TRUNC_POLICY` turn a known-tag transaction of this length into `TruncatedPayload` (R100)? The check is on `n`
alone. -/
def truncates (policy : TruncPolicy) (n : Len) : Bool :=
  match policy with
  | .preserve => false
  | .fault => decide (n.toNat < 32)

/-- A known-tag operation: `TruncatedPayload{n, tag}` if the policy asks for it, else the record with the tick counter. -/
def knownTag (tag : Byte) (record : Frame → U32 → FrameOutcome) (s : State) : Host.Outcome State Fault Refusal :=
  if truncates s.truncPolicy s.rxLen then raise (.truncatedPayload s.rxLen tag) s
  else setOut (record s.B (tick s.B)) s

end Sys2Proof.Machine
end

