-- ==== Sys2Proof/Machine/Ballast.lean ====
section
/-! DEFINITION. BAL, the Ballast variant, tag 0x01 (43_ballast.md). -/

namespace Sys2Proof.Machine

/-- BAL's pseudocode (R88): two raw bytes passed through (R89), and the tick counter `t`. -/
def balRecord (B : Frame) (t : U32) : FrameOutcome :=
  .bal { currentState := u8 B currentStateOffset
         targetState := u8 B targetStateOffset } t

/-- The meaning of BAL (R88, R91). -/
def execBal (s : State) : Host.Outcome State Fault Refusal := knownTag Config.tagBal balRecord s

end Sys2Proof.Machine
end

