-- ==== Sys2Proof/Machine/Environment.lean ====
section
/-! DEFINITION. ENV, the Environment variant, tag 0x00 (42_environment.md). -/

namespace Sys2Proof.Machine

/-- ENV's pseudocode (R83): two raw unsigned bytes (R85), the stale predicate (R84), and the tick counter `t`. -/
def envRecord (B : Frame) (t : U32) : FrameOutcome :=
  .env { internalTemperatureC := u8 B temperatureOffset
         internalHumidityPercent := u8 B humidityOffset
         isStale := stale B staleOffset } t

/-- The meaning of ENV (R83, R87). -/
def execEnv (s : State) : Host.Outcome State Fault Refusal := knownTag Config.tagEnv envRecord s

end Sys2Proof.Machine
end

