-- ==== Sys2Proof/Machine/System.lean ====
section
/-! DEFINITION. SYS, the System variant, tag 0x0F (44_system.md). -/

namespace Sys2Proof.Machine

/-- SYS's pseudocode (R92): three little-endian fields at offsets 0, 4 and 8 (R93), and the tick counter `t` (R94). -/
def sysRecord (B : Frame) (t : U32) : FrameOutcome :=
  .sys { tickDelta := le32 B tickDeltaOffset
         tickIdleTime := le32 B tickIdleTimeOffset
         totalTickTime := le32 B totalTickTimeOffset } t

/-- The meaning of SYS (R92, R96). -/
def execSys (s : State) : Host.Outcome State Fault Refusal := knownTag Config.tagSys sysRecord s

end Sys2Proof.Machine
end

