-- ==== Sys2Proof/Machine/Unknown.lean ====
section
/-! DEFINITION. UNK, the operation of every tag that is not known (40_dispatch.md R68). -/

namespace Sys2Proof.Machine

/-- The meaning of UNK (R68, 60_exceptions.md R99): the raw tag byte is reported, with no tick counter and no payload,
whatever `n` and `TRUNC_POLICY` are (R104). -/
def execUnk (tag : Byte) (s : State) : Host.Outcome State Fault Refusal := raise (.unrecognizedTag tag) s

end Sys2Proof.Machine
end

