-- ==== Sys2Proof/Machine/Dispatch.lean ====
section
/-! DEFINITION. Dispatch: one arm per constructor, each one direct call of its meaning (40_dispatch.md R67). -/

namespace Sys2Proof.Machine

def exec (i : Instr) (s : State) : Host.Outcome State Fault Refusal :=
  match i with
  | .env => Sys2Proof.Machine.execEnv s
  | .bal => Sys2Proof.Machine.execBal s
  | .sys => Sys2Proof.Machine.execSys s
  | .unk tag => Sys2Proof.Machine.execUnk tag s

end Sys2Proof.Machine
end

