-- ==== Sys2Proof/Machine/Step.lean ====
section
/-! DEFINITION. One step: one transaction (00_scope.md R10), or an idle step while none is presented. -/

namespace Sys2Proof.Machine

/-- One step. While nothing is presented the block is idle, and the reader's next transaction comes on the ports. A
transaction whose operands change has no meaning (R120). Otherwise the length is checked, the tag is located and
classified, the operation it selects is executed, and the reader goes on to its next transaction (40_dispatch.md R65,
70_reset_and_hazards.md R128). -/
def step (s : State) : Host.Outcome State Fault Refusal :=
  if s.inValid then
    if s.held then
      match decode s.B s.rxLen with
      | .ok i => finish (exec i s)
      | .error e => finish (raise (lengthOutcome e) s)
    else .refused .operandsChanged
  else finish (.next s)

/-- The state with an opcode-table word presented as the tag of a full frame whose other bytes are 0, so that the next
step decodes and runs exactly it. It stands for the Channel Reader's presenting that frame. Assumptions 12 and 13. -/
def State.withFetchWord (s : State) (nbits w : Nat) : State :=
  s.present { frame := Memory.write [] 31 (tableTag nbits w), n := 32#6 }

end Sys2Proof.Machine
end

