-- ==== Sys2Proof/Machine/Transaction.lean ====
section
/-! DEFINITION. DECODE as one pure function from the operands to the outcome, line by line as 40_dispatch.md R65 gives it.
The output ports are its value on the current inputs (10_state.md R30); that a step delivers the same outcome is a
statement about the model, not its definition. -/

namespace Sys2Proof.Machine

/-- DECODE (R65). The numbers are the lines of its pseudocode. -/
def decodeTransaction (policy : TruncPolicy) (B : Frame) (n : Len) : FrameOutcome :=
  if h0 : n.toNat = 0 then .shortFrame                                                       -- 1
  else if h32 : 32 < n.toNat then .lengthOutOfRange n                                        -- 2
  else
    let tag := tagsel B n (by omega) (by omega)                                              -- 3
    if tag ≠ Config.tagEnv ∧ tag ≠ Config.tagBal ∧ tag ≠ Config.tagSys then
      .unrecognizedTag tag                                                                   -- 4
    else if policy = .fault ∧ n.toNat < 32 then .truncatedPayload n tag                      -- 5
    else
      let t := tick B                                                                        -- 6
      if tag = Config.tagEnv then envRecord B t                                              -- 7
      else if tag = Config.tagBal then balRecord B t
      else sysRecord B t

/-- The outcome of a presented transaction. -/
def Transaction.outcome (policy : TruncPolicy) (t : Transaction) : FrameOutcome :=
  decodeTransaction policy t.frame.view t.n

/-- Obligation R120 for one transaction: what is driven later is what was driven first. -/
def Transaction.held (t : Transaction) : Bool := t.redriven.all (fun o => o == { frame := t.frame, n := t.n })

/-- The transactions of a state that are still to be decoded, in presentation order: the one on the ports, if any, then
the reader's queue (R12, 70_reset_and_hazards.md R128). -/
def State.presented (s : State) : List Transaction :=
  if s.inValid then { frame := s.frame, n := s.rxLen, redriven := s.redriven } :: s.queue else s.queue

end Sys2Proof.Machine
end

