-- ==== Sys2Proof/Machine/Notation.lean ====
section
/-! DEFINITION. The spec's own textual notation for frames (30_encoding.md R62, R63): the builder form, its expansion to a
transaction, the canonical line, and the comment that names what a transaction selects. -/

namespace Sys2Proof.Machine

/-- An item of a builder group (R63): a byte `hh`, or `le32(v)`, which takes four offsets. -/
inductive FrameItem where
  | byte (b : Byte)
  | le32 (v : U32)
deriving DecidableEq, Repr

/-- The bytes an item expands to, in ascending offset order: `le32` is the inverse of LE32 (R63, 41_field_extract.md
R79). -/
def FrameItem.bytes : FrameItem → List Byte
  | .byte b => [b]
  | .le32 v =>
    [BitVec.ofNat 8 (v.toNat % 256), BitVec.ofNat 8 (v.toNat / 256 % 256),
     BitVec.ofNat 8 (v.toNat / 65536 % 256), BitVec.ofNat 8 (v.toNat / 16777216)]

/-- `@<off>=<item> <item> …` -/
structure FrameGroup where
  off : Nat
  items : List FrameItem
deriving DecidableEq, Repr

/-- `FRAME n=<n> fill=<hh> @<off>=… @<off>=…` -/
structure FrameBuilder where
  n : Len
  fill : Byte := 0x00#8
  groups : List FrameGroup
deriving DecidableEq, Repr

/-- Write bytes at ascending offsets from `off` on; there is no answer when one would fall outside the 32 offsets
(20_memory.md R27 has no such location, and R63 gives such a line no meaning; assumption 17). -/
def Memory.writeBytes : Memory → Nat → List Byte → Option Memory
  | m, _, [] => some m
  | m, off, b :: rest =>
    if h : off < 32 then Memory.writeBytes (m.write ⟨off, h⟩ b) (off + 1) rest else none

/-- Write the groups from left to right, so that a later one overwrites an earlier one (R63). -/
def Memory.writeGroups : Memory → List FrameGroup → Option Memory
  | m, [] => some m
  | m, g :: rest =>
    match m.writeBytes g.off (g.items.flatMap FrameItem.bytes) with
    | some m' => Memory.writeGroups m' rest
    | none => none

/-- A buffer of 32 equal bytes (R63). -/
def Memory.filled (b : Byte) : Memory := (List.finRange 32).foldl (fun m o => m.write o b) []

/-- The expansion of a builder line to its transaction (R63). -/
def FrameBuilder.expand (line : FrameBuilder) : Option Transaction :=
  (Memory.writeGroups (Memory.filled line.fill) line.groups).map fun m => { frame := m, n := line.n }

/-- The canonical form read as a transaction: the 32 bytes of the line, offset 0 first (R62). -/
def Transaction.ofBytes (n : Len) (bytes : List Byte) : Option Transaction :=
  if bytes.length = 32 then (Memory.writeBytes [] 0 bytes).map fun m => { frame := m, n := n } else none

/-- The bytes of the canonical form of a transaction, offset 0 first (R62). -/
def Transaction.bytes (t : Transaction) : List Byte := (List.finRange 32).map t.frame.view

/-- One upper-case hexadecimal digit. -/
def hexDigit (d : Nat) : Char := if d < 10 then Char.ofNat (48 + d) else Char.ofNat (55 + d)

/-- Two hexadecimal digits for a byte. -/
def hexByte (b : Byte) : List Char := [hexDigit (b.toNat / 16), hexDigit (b.toNat % 16)]

/-- The canonical line, `FRAME n=<decimal> : <32 hex bytes>` (R62), as its characters. -/
def Transaction.line (t : Transaction) : List Char :=
  ['F', 'R', 'A', 'M', 'E', ' ', 'n', '='] ++ Nat.toDigits 10 t.n.toNat ++ [' ', ':'] ++
    t.bytes.flatMap (fun b => ' ' :: hexByte b)

/-- The trailing comment (R62): the operation selected, or the outcome that stands in place of one. -/
def FrameOutcome.comment : FrameOutcome → String
  | .env _ _ => "ENV"
  | .bal _ _ => "BAL"
  | .sys _ _ => "SYS"
  | .unrecognizedTag _ => "UNK"
  | .shortFrame => "SHORT"
  | .lengthOutOfRange _ => "BADLEN"
  | .truncatedPayload _ _ => "TRUNC"

end Sys2Proof.Machine
end

