-- ==== Sys2Proof/Machine/Ports.lean ====
section
/-! DEFINITION. The port-level packaging of a transaction (10_state.md R30, 70_reset_and_hazards.md R114): the block is
combinational, so its output ports are a function of its current inputs. A port outside its "meaningful when" column is a
free value (`Config.freePort`). -/

namespace Sys2Proof.Machine

/-- The input ports with their widths. -/
structure InPorts where
  inValid : BitVec 1
  frame : BitVec 256
  rxLen : BitVec 6
deriving DecidableEq, Repr

/-- The output ports with their widths. -/
structure OutPorts where
  outValid : BitVec 1
  kind : BitVec 3
  tagRaw : BitVec 8
  tick : BitVec 32
  envTemp : BitVec 8
  envHum : BitVec 8
  envStale : BitVec 1
  balCur : BitVec 8
  balTgt : BitVec 8
  sysDelta : BitVec 32
  sysIdle : BitVec 32
  sysTotal : BitVec 32
deriving DecidableEq, Repr

/-- A byte list as a number, the first byte in the least significant position. -/
def packLE : List Byte → Nat
  | [] => 0
  | b :: rest => b.toNat + 256 * packLE rest

/-- The 32 bytes of a frame, offset 0 first. -/
def Frame.bytes (B : Frame) : List Byte := (List.finRange 32).map B

/-- The `frame` port: byte `B[i]` is bits `8i+7` down to `8i` (R30). -/
def framePort (B : Frame) : BitVec 256 := BitVec.ofNat 256 (packLE (Frame.bytes B))

/-- The input ports of a state. -/
def State.inPorts (s : State) : InPorts where
  inValid := BitVec.ofBool s.inValid
  frame := framePort s.B
  rxLen := s.rxLen

/-- The tick counter where the `tick` port is meaningful: kinds 0, 1 and 2. -/
def FrameOutcome.tick? : FrameOutcome → Option U32
  | .env _ t => some t
  | .bal _ t => some t
  | .sys _ t => some t
  | .unrecognizedTag _ => none
  | .shortFrame => none
  | .lengthOutOfRange _ => none
  | .truncatedPayload _ _ => none

/-- The Environment record, where `env_temp`, `env_hum` and `env_stale` are meaningful: kind 0. -/
def FrameOutcome.env? : FrameOutcome → Option EnvironmentTelemetry
  | .env r _ => some r
  | _ => none

/-- The Ballast record, where `bal_cur` and `bal_tgt` are meaningful: kind 1. -/
def FrameOutcome.bal? : FrameOutcome → Option BallastTelemetry
  | .bal r _ => some r
  | _ => none

/-- The System record, where `sys_delta`, `sys_idle` and `sys_total` are meaningful: kind 2. -/
def FrameOutcome.sys? : FrameOutcome → Option SystemTelemetry
  | .sys r _ => some r
  | _ => none

/-- The tag byte `B[n-1]`, where `tag_raw` is meaningful: every kind but 4 and 5, which are exactly the lengths that
locate no tag. -/
def tagRaw? (B : Frame) (n : Len) : Option Byte :=
  if h : 1 ≤ n.toNat ∧ n.toNat ≤ 32 then some (tagsel B n h.1 h.2) else none

/-- The outcome that the ports show: DECODE of the current inputs while a transaction is presented and its operands are
held (R30, R120), and none otherwise. -/
def State.shown (s : State) : Option FrameOutcome :=
  if s.inValid && s.held then some (decodeTransaction s.truncPolicy s.B s.rxLen) else none

/-- The free value of a port at this state. -/
def State.free (s : State) (width port : Nat) : BitVec width := Config.freePort State width port s

/-- The output ports of a state (R30): `out_valid` equals `in_valid`; a meaningful port has its value; every other port is
a free value. -/
def State.outPorts (s : State) : OutPorts where
  outValid := BitVec.ofBool s.inValid
  kind := (s.shown.map FrameOutcome.kind).getD (s.free 3 1)
  tagRaw := (s.shown.bind fun _ => tagRaw? s.B s.rxLen).getD (s.free 8 2)
  tick := (s.shown.bind FrameOutcome.tick?).getD (s.free 32 3)
  envTemp := ((s.shown.bind FrameOutcome.env?).map (·.internalTemperatureC)).getD (s.free 8 4)
  envHum := ((s.shown.bind FrameOutcome.env?).map (·.internalHumidityPercent)).getD (s.free 8 5)
  envStale := ((s.shown.bind FrameOutcome.env?).map fun r => BitVec.ofBool r.isStale).getD (s.free 1 6)
  balCur := ((s.shown.bind FrameOutcome.bal?).map (·.currentState)).getD (s.free 8 7)
  balTgt := ((s.shown.bind FrameOutcome.bal?).map (·.targetState)).getD (s.free 8 8)
  sysDelta := ((s.shown.bind FrameOutcome.sys?).map (·.tickDelta)).getD (s.free 32 9)
  sysIdle := ((s.shown.bind FrameOutcome.sys?).map (·.tickIdleTime)).getD (s.free 32 10)
  sysTotal := ((s.shown.bind FrameOutcome.sys?).map (·.totalTickTime)).getD (s.free 32 11)

/-- What a sink that respects R124 reads from the ports: nothing while `out_valid` is 0; else the outcome that `kind`
names, from that kind's own ports and the input `rx_len`. Kind 7 names none. -/
def OutPorts.observe (p : OutPorts) (rxLen : Len) : Option FrameOutcome :=
  if p.outValid = 0#1 then none
  else if p.kind = 0#3 then
    some (.env { internalTemperatureC := p.envTemp
                 internalHumidityPercent := p.envHum
                 isStale := p.envStale == 1#1 } p.tick)
  else if p.kind = 1#3 then some (.bal { currentState := p.balCur, targetState := p.balTgt } p.tick)
  else if p.kind = 2#3 then
    some (.sys { tickDelta := p.sysDelta, tickIdleTime := p.sysIdle, totalTickTime := p.sysTotal } p.tick)
  else if p.kind = 3#3 then some (.unrecognizedTag p.tagRaw)
  else if p.kind = 4#3 then some .shortFrame
  else if p.kind = 5#3 then some (.lengthOutOfRange rxLen)
  else if p.kind = 6#3 then some (.truncatedPayload rxLen p.tagRaw)
  else none

end Sys2Proof.Machine
end

