-- ==== Sys2Proof/Safety.lean ====
section
/-! DEFINITION. What counts as a safe run: the Channel Reader's obligations (70_reset_and_hazards.md R118 to R120), the
ranges of the outcome type (10_state.md R21), the invariant of the machine, and the mark that a broken environment leaves
(60_exceptions.md R101, R106). -/

namespace Sys2Proof.Machine

/-- The ranges R21 gives the outcomes' fields; `TruncatedPayload` only under `TRUNC_POLICY = FAULT`. -/
def FrameOutcome.inRange (policy : TruncPolicy) : FrameOutcome → Bool
  | .env _ _ => true
  | .bal _ _ => true
  | .sys _ _ => true
  | .unrecognizedTag tag => !isKnownTag tag
  | .shortFrame => true
  | .lengthOutOfRange n => decide (33 ≤ n.toNat)
  | .truncatedPayload n tag =>
    policy == .fault && decide (1 ≤ n.toNat) && decide (n.toNat ≤ 31) && isKnownTag tag

/-- The buffers of a transaction are canonical. -/
def Transaction.wf (t : Transaction) : Bool := t.frame.wf && t.redriven.all (·.frame.wf)

/-- The invariant: every buffer is in its canonical form, and every outcome delivered is one R21 allows. -/
def State.inv (s : State) : Bool :=
  s.frame.wf && s.redriven.all (·.frame.wf) && s.queue.all (·.wf) && s.delivered.all (·.inRange s.truncPolicy)

/-- The reader meets R118 (`n ≥ 1`), R119 (`n ≤ 32`) and R120 (operands held) in one transaction. -/
def Transaction.lawful (t : Transaction) : Bool :=
  decide (1 ≤ t.n.toNat) && decide (t.n.toNat ≤ 32) && t.held

/-- The reader meets its obligations in every transaction that is still to be decoded. -/
def State.lawful (s : State) : Bool := s.presented.all (·.lawful)

/-- The value R32 gives a four-byte read, as a number: the weights 1, 256, 65536 and 16777216. It is written apart from
`le32`, so that a claim can hold the two against each other. -/
def leValue (B : Frame) (o : Fin 29) : Nat :=
  (B ⟨o.val, by omega⟩).toNat + 256 * (B ⟨o.val + 1, by omega⟩).toNat + 65536 * (B ⟨o.val + 2, by omega⟩).toNat
    + 16777216 * (B ⟨o.val + 3, by omega⟩).toNat

/-- The offsets each operation reads as fields, the tick counter's among them (10_state.md R23, 20_memory.md R39); the tag
is read beside them. -/
def fieldOffsets : Instr → List Nat
  | .env => [0, 1, 2, 27, 28, 29, 30]
  | .bal => [0, 1, 27, 28, 29, 30]
  | .sys => [0, 1, 2, 3, 4, 5, 6, 7, 8, 9, 10, 11, 27, 28, 29, 30]
  | .unk _ => []

/-- Is the outcome `LengthOutOfRange`, the one that says the environment broke its obligation (R101)? -/
def FrameOutcome.isLengthOutOfRange : FrameOutcome → Bool
  | .lengthOutOfRange _ => true
  | _ => false

/-- The environment's fault mark (R106): some transaction had `n > 32`. No other outcome sets it. -/
def State.environmentFault (s : State) : Bool := s.delivered.any (·.isLengthOutOfRange)

end Sys2Proof.Machine
end

