-- ==== Sys2Proof/Certificates/Slice0/Obligations.lean ====
section
/-! DEFINITION. The statements for the provers. Each docstring says which rule of spec/ it formalises. `o.val + 1 = n.toNat`
says that the offset `o` is `n - 1`, the tag's, and so that `1 ≤ n ≤ 32`. A statement about exec or step holds in every
state, whatever the queue, the outcomes delivered before and the draw counter are. -/

open Sys2Proof Sys2Proof.Machine

/-! ### The tag map, the decoder and the encoder -/

/-- R49, R50: tag bytes written out bit by bit from the tag map, at offset 31 of a full frame. -/
def Obligations.WrittenOutTagsDecode : Prop :=
  decode (tableFrame 0b00000000#8) 32#6 = .ok .env ∧
  decode (tableFrame 0b00000001#8) 32#6 = .ok .bal ∧
  decode (tableFrame 0b00001111#8) 32#6 = .ok .sys ∧
  decode (tableFrame 0b01000010#8) 32#6 = .ok (.unk 0x42#8) ∧
  decode (tableFrame 0b00010000#8) 32#6 = .ok (.unk 0x10#8) ∧
  decode (tableFrame 0b10000000#8) 32#6 = .ok (.unk 0x80#8) ∧
  decode (tableFrame 0b10000001#8) 32#6 = .ok (.unk 0x81#8) ∧
  decode (tableFrame 0b00011111#8) 32#6 = .ok (.unk 0x1F#8) ∧
  decode (tableFrame 0b11110000#8) 32#6 = .ok (.unk 0xF0#8)

/-- R67: CLASSIFY on all 256 tag values. -/
def Obligations.ClassifyComparesTheWholeTag : Prop :=
  ∀ tag : Byte,
    (classify tag = .env ↔ tag = 0x00#8) ∧
    (classify tag = .bal ↔ tag = 0x01#8) ∧
    (classify tag = .sys ↔ tag = 0x0F#8) ∧
    (∀ u : Byte, classify tag = .unk u ↔ u = tag ∧ tag ≠ 0x00#8 ∧ tag ≠ 0x01#8 ∧ tag ≠ 0x0F#8)

/-- R51: the unknown tags are the 13 values 0x02 to 0x0E and the 240 values 0x10 to 0xFF, 253 in all. -/
def Obligations.UnknownTagsAre253InTwoRanges : Prop :=
  ((List.range 256).countP fun v => classify (BitVec.ofNat 8 v) == .unk (BitVec.ofNat 8 v)) = 253 ∧
  ∀ tag : Byte, classify tag = .unk tag ↔
    (2 ≤ tag.toNat ∧ tag.toNat ≤ 14) ∨ (16 ≤ tag.toNat ∧ tag.toNat ≤ 255)

/-- R64: the first row that matches names the operation the decoder selects, and no tag matches two of the three rows
with a known tag, so that their mutual order does not matter. -/
def Obligations.OpcodeTableSelectsWhatTheDecoderSelects : Prop :=
  ∀ tag : Byte,
    (opcodeRows.find? fun row => row.accepts tag).map (·.mnemonic) = some (classify tag).mnemonic ∧
    ((opcodeRows.take 3).countP fun row => row.accepts tag) ≤ 1

/-- R48, R49, R66, R67: from every frame and every length, the decoder answers an instruction exactly when it is well formed
and its encoding stands at offset `n - 1`; so decoding an encoded instruction gives it back, and no bit of the tag is
dropped. -/
def Obligations.DecodeAnswersExactlyTheEncodedInstruction : Prop :=
  ∀ (B : Frame) (n : Len) (i : Instr),
    decode B n = .ok i ↔ i.wellFormed = true ∧ ∃ o : Fin 32, o.val + 1 = n.toNat ∧ B o = encode i

/-- R61: the decoder refuses exactly the two lengths outside the contract, each by its name, whatever the frame holds. -/
def Obligations.DecodeRefusesExactlyTheBadLengths : Prop :=
  ∀ (B : Frame) (n : Len),
    (decode B n = .error .shortFrame ↔ n.toNat = 0) ∧
    (∀ m : Len, decode B n = .error (.lengthOutOfRange m) ↔ m = n ∧ 33 ≤ n.toNat)

/-! ### The extractors -/

/-- R74, R78 (and R32's weights): LE32 is the weighted sum of its four bytes, without overflow, and its four slices are
those bytes. -/
def Obligations.Le32IsTheWeightedSumAndItsSlicesTheBytes : Prop :=
  ∀ (B : Frame) (o : Fin 29),
    (le32 B o).toNat = leValue B o ∧ leValue B o < 2 ^ 32 ∧
    (le32 B o).extractLsb' 0 8 = B ⟨o.val, by omega⟩ ∧
    (le32 B o).extractLsb' 8 8 = B ⟨o.val + 1, by omega⟩ ∧
    (le32 B o).extractLsb' 16 8 = B ⟨o.val + 2, by omega⟩ ∧
    (le32 B o).extractLsb' 24 8 = B ⟨o.val + 3, by omega⟩

/-- R79: LE32 recovers the value whose four base-256 digits the bytes are; R78: no other four bytes give it. -/
def Obligations.Le32RoundTripsAndIsInjective : Prop :=
  (∀ (B : Frame) (o : Fin 29) (v : U32),
    (B ⟨o.val, by omega⟩).toNat = v.toNat % 256 →
    (B ⟨o.val + 1, by omega⟩).toNat = v.toNat / 256 % 256 →
    (B ⟨o.val + 2, by omega⟩).toNat = v.toNat / 65536 % 256 →
    (B ⟨o.val + 3, by omega⟩).toNat = v.toNat / 16777216 →
    le32 B o = v) ∧
  (∀ (B B' : Frame) (o : Fin 29), le32 B o = le32 B' o →
    ∀ k : Fin 32, o.val ≤ k.val → k.val ≤ o.val + 3 → B k = B' k)

/-- R75: STALE is true exactly when the byte is 0, and the unsigned test "less than 1" is the same predicate. -/
def Obligations.StaleExactlyWhenTheByteIsZero : Prop :=
  ∀ (B : Frame) (o : Fin 32),
    (stale B o = true ↔ B o = 0x00#8) ∧ (stale B o = true ↔ (B o).toNat < 1)

/-- R82: what the three variants read from the same bytes. -/
def Obligations.OneFrameThreeReadings : Prop :=
  ∀ (B : Frame) (t : U32), ∃ (e : EnvironmentTelemetry) (b : BallastTelemetry) (y : SystemTelemetry),
    envRecord B t = .env e t ∧ balRecord B t = .bal b t ∧ sysRecord B t = .sys y t ∧
    e.internalTemperatureC = B 0 ∧ b.currentState = B 0 ∧ y.tickDelta.extractLsb' 0 8 = B 0 ∧
    e.internalHumidityPercent = B 1 ∧ b.targetState = B 1 ∧ y.tickDelta.extractLsb' 8 8 = B 1 ∧
    e.isStale = (y.tickDelta.extractLsb' 16 8 == 0x00#8)

/-! ### The four operations -/

/-- R83 (with R84, R85): ENV's record, in every state in which the policy does not truncate; and a step on a presented
frame whose tag is 0x00 delivers it. -/
def Obligations.EnvDeliversItsRecord : Prop :=
  ∀ s : State, s.truncPolicy = .preserve ∨ 32 ≤ s.rxLen.toNat →
    let t := { s with delivered := s.delivered ++
      [.env { internalTemperatureC := s.B 0
              internalHumidityPercent := s.B 1
              isStale := s.B 2 == 0x00#8 } (BitVec.ofNat 32 (leValue s.B 27))] }
    exec .env s = .next t ∧
    (∀ o : Fin 32, s.inValid = true → s.held = true → o.val + 1 = s.rxLen.toNat → s.B o = 0x00#8 →
      step s = .next t.advance)

/-- R88 (with R89): BAL's record, in every state in which the policy does not truncate; and a step on a presented frame
whose tag is 0x01 delivers it. -/
def Obligations.BalDeliversItsRecord : Prop :=
  ∀ s : State, s.truncPolicy = .preserve ∨ 32 ≤ s.rxLen.toNat →
    let t := { s with delivered := s.delivered ++
      [.bal { currentState := s.B 0, targetState := s.B 1 } (BitVec.ofNat 32 (leValue s.B 27))] }
    exec .bal s = .next t ∧
    (∀ o : Fin 32, s.inValid = true → s.held = true → o.val + 1 = s.rxLen.toNat → s.B o = 0x01#8 →
      step s = .next t.advance)

/-- R92 (with R94): SYS's record, in every state in which the policy does not truncate; and a step on a presented frame
whose tag is 0x0F delivers it. -/
def Obligations.SysDeliversItsRecord : Prop :=
  ∀ s : State, s.truncPolicy = .preserve ∨ 32 ≤ s.rxLen.toNat →
    let t := { s with delivered := s.delivered ++
      [.sys { tickDelta := BitVec.ofNat 32 (leValue s.B 0)
              tickIdleTime := BitVec.ofNat 32 (leValue s.B 4)
              totalTickTime := BitVec.ofNat 32 (leValue s.B 8) } (BitVec.ofNat 32 (leValue s.B 27))] }
    exec .sys s = .next t ∧
    (∀ o : Fin 32, s.inValid = true → s.held = true → o.val + 1 = s.rxLen.toNat → s.B o = 0x0F#8 →
      step s = .next t.advance)

/-- R68, R99: UNK reports the raw tag byte and nothing else, at every length and under both policies; and a step on a
presented frame whose tag is none of the three delivers that. -/
def Obligations.UnkReportsTheRawTag : Prop :=
  ∀ (s : State) (tag : Byte),
    let t := { s with delivered := s.delivered ++ [.unrecognizedTag tag] }
    exec (.unk tag) s = .next t ∧
    (∀ o : Fin 32, s.inValid = true → s.held = true → o.val + 1 = s.rxLen.toNat → s.B o = tag →
      tag ≠ 0x00#8 → tag ≠ 0x01#8 → tag ≠ 0x0F#8 → step s = .next t.advance)

/-- R100, under `TRUNC_POLICY = FAULT`: every short read with a known tag yields `TruncatedPayload` with `n` and the tag,
in place of a record. The clause on `step` is the rule's. The clause on `exec` is the MODEL'S CHOICE: that ENV, BAL and SYS
themselves make the check, where R83, R88 and R92 say that DECODE raises the outcome before they run, is assumption 14
(DEDUCED); and at `n = 0`, which no transaction brings to `exec` and which R21 and R97 leave out of the outcome's range, it
rests on assumption 15. -/
def Obligations.FaultPolicyTruncatesKnownShortReads : Prop :=
  ∀ (s : State) (i : Instr), s.truncPolicy = .fault → s.rxLen.toNat < 32 → i = .env ∨ i = .bal ∨ i = .sys →
    let t := { s with delivered := s.delivered ++ [.truncatedPayload s.rxLen (encode i)] }
    exec i s = .next t ∧
    (∀ o : Fin 32, s.inValid = true → s.held = true → o.val + 1 = s.rxLen.toNat → s.B o = encode i →
      step s = .next t.advance)

/-- R16, R31 and the rest of the state: whatever instruction is executed, no byte of the frame and no other field changes;
exactly one outcome is appended to those delivered. -/
def Obligations.ExecOnlyAppendsOneOutcome : Prop :=
  ∀ (i : Instr) (s t : State), exec i s = .next t →
    (∀ o : Fin 32, t.B o = s.B o) ∧ t.frame = s.frame ∧ t.rxLen = s.rxLen ∧ t.inValid = s.inValid ∧
    t.redriven = s.redriven ∧ t.queue = s.queue ∧ t.truncPolicy = s.truncPolicy ∧ t.draw = s.draw ∧
    ∃ out : FrameOutcome, t.delivered = s.delivered ++ [out]

/-! ### DECODE -/

/-- R65's list of exceptions, which R104's order makes exact: when each outcome that is not a record occurs, and what it
carries. -/
def Obligations.NonRecordOutcomesOccurExactlyWhen : Prop :=
  ∀ (policy : TruncPolicy) (B : Frame) (n : Len),
    (decodeTransaction policy B n = .shortFrame ↔ n.toNat = 0) ∧
    (∀ m : Len, decodeTransaction policy B n = .lengthOutOfRange m ↔ m = n ∧ 33 ≤ n.toNat) ∧
    (∀ tag : Byte, decodeTransaction policy B n = .unrecognizedTag tag ↔
      ∃ o : Fin 32, o.val + 1 = n.toNat ∧ B o = tag ∧ tag ≠ 0x00#8 ∧ tag ≠ 0x01#8 ∧ tag ≠ 0x0F#8) ∧
    (∀ (m : Len) (tag : Byte), decodeTransaction policy B n = .truncatedPayload m tag ↔
      policy = .fault ∧ m = n ∧ n.toNat < 32 ∧
        ∃ o : Fin 32, o.val + 1 = n.toNat ∧ B o = tag ∧ (tag = 0x00#8 ∨ tag = 0x01#8 ∨ tag = 0x0F#8))

/-- R100: `FAULT` changes nothing but the short reads that `PRESERVE` decodes to a record: a full frame, an unknown tag and
a bad length have the same outcome under both policies. -/
def Obligations.FaultPolicyChangesOnlyShortRecords : Prop :=
  ∀ (B : Frame) (n : Len),
    if (decodeTransaction .preserve B n).isRecord = true ∧ n.toNat < 32 then
      ∃ o : Fin 32, o.val + 1 = n.toNat ∧ decodeTransaction .fault B n = .truncatedPayload n (B o)
    else decodeTransaction .fault B n = decodeTransaction .preserve B n

/-- R77: the tick counter is attached to each of the three records, the same value whichever tag selected it, and to no
other outcome. -/
def Obligations.TickIsAttachedToRecordsOnly : Prop :=
  ∀ (policy : TruncPolicy) (B : Frame) (n : Len),
    (decodeTransaction policy B n).tick? =
      if (decodeTransaction policy B n).isRecord then some (BitVec.ofNat 32 (leValue B 27)) else none

/-- R57, R66 (and R86, R90, R95): two transactions with the same tag byte, at their respective `n - 1`, and the same field
bytes of the operation it selects have the same outcome, whatever every other byte holds; under `FAULT` their lengths are
to be equal. -/
def Obligations.OnlyTagAndFieldBytesInfluenceTheOutcome : Prop :=
  ∀ (policy : TruncPolicy) (B B' : Frame) (n n' : Len) (o o' : Fin 32),
    o.val + 1 = n.toNat → o'.val + 1 = n'.toNat → B o = B' o' → policy = .preserve ∨ n = n' →
    (∀ k : Fin 32, k.val ∈ fieldOffsets (classify (B o)) → B k = B' k) →
    decodeTransaction policy B n = decodeTransaction policy B' n'

/-- R59, R87, R91, R96: what a tag that coincides with a field byte forces, under `PRESERVE`. -/
def Obligations.ShortReadTagOverlapsItsField : Prop :=
  ∀ (B : Frame) (n : Len) (o : Fin 32), o.val + 1 = n.toNat →
    (∀ r t, decodeTransaction .preserve B n = .env r t →
      (n.toNat = 1 → r.internalTemperatureC = 0#8) ∧ (n.toNat = 2 → r.internalHumidityPercent = 0#8) ∧
      (n.toNat = 3 → r.isStale = true) ∧
      (28 ≤ n.toNat → n.toNat ≤ 31 → t.extractLsb' (8 * (n.toNat - 28)) 8 = 0x00#8)) ∧
    (∀ r t, decodeTransaction .preserve B n = .bal r t →
      (n.toNat = 1 → r.currentState = 1#8) ∧ (n.toNat = 2 → r.targetState = 1#8) ∧
      (28 ≤ n.toNat → n.toNat ≤ 31 → t.extractLsb' (8 * (n.toNat - 28)) 8 = 0x01#8)) ∧
    (∀ r t, decodeTransaction .preserve B n = .sys r t →
      (n.toNat ≤ 4 → r.tickDelta.extractLsb' (8 * (n.toNat - 1)) 8 = 0x0F#8) ∧
      (5 ≤ n.toNat → n.toNat ≤ 8 → r.tickIdleTime.extractLsb' (8 * (n.toNat - 5)) 8 = 0x0F#8) ∧
      (9 ≤ n.toNat → n.toNat ≤ 12 → r.totalTickTime.extractLsb' (8 * (n.toNat - 9)) 8 = 0x0F#8) ∧
      (28 ≤ n.toNat → n.toNat ≤ 31 → t.extractLsb' (8 * (n.toNat - 28)) 8 = 0x0F#8))

/-- R125: an all-zero buffer is a stale Environment frame at every length of the contract, under the default policy. -/
def Obligations.AllZeroBufferIsAStaleEnvironmentFrame : Prop :=
  ∀ n : Len, 1 ≤ n.toNat → n.toNat ≤ 32 →
    decodeTransaction .preserve (fun _ => 0x00#8) n =
      .env { internalTemperatureC := 0#8, internalHumidityPercent := 0#8, isStale := true } 0#32

/-- R59, R125, on 95_test_vectors.md D31 and D32: one buffer, two lengths, two variants. -/
def Obligations.OneBufferTwoLengthsTwoVariants : Prop :=
  ∃ m : Memory,
    Memory.writeGroups [] [{ off := 0, items := [.byte 0x07#8, .byte 0x08#8] },
      { off := 27, items := [.byte 0xEF#8, .byte 0xCD#8, .byte 0xAB#8, .byte 0x01#8, .byte 0x0F#8] }] = some m ∧
    decodeTransaction .preserve m.view 31#6 = .bal { currentState := 7#8, targetState := 8#8 } 28036591#32 ∧
    decodeTransaction .preserve m.view 32#6 =
      .sys { tickDelta := 2055#32, tickIdleTime := 0#32, totalTickTime := 0#32 } 28036591#32

/-! ### Steps and runs -/

/-- The step runs the instruction its decoder reads: it is exec of that instruction, then the hand-over to the reader's next
transaction (R65, R128). -/
def Obligations.StepRunsTheDecodedInstruction : Prop :=
  ∀ (s : State) (i : Instr), s.inValid = true → s.held = true → decode s.B s.rxLen = .ok i →
    ∃ t : State, exec i s = .next t ∧ step s = .next t.advance

/-- While nothing is presented a step delivers nothing, and only hands over to the reader's next transaction, if it has one.
R114 and R12 say that nothing is reported then and that a run is over when nothing further is presented; that an idle step
exists, and that it hands over to the first transaction of the queue, is the MODEL'S CHOICE (assumption 11). -/
def Obligations.IdleStepOnlyHandsOver : Prop :=
  ∀ s : State, s.inValid = false → step s = .next s.advance ∧ s.advance.delivered = s.delivered

/-- R12, R128: the hand-over presents the reader's next transaction, or lowers `in_valid` where there is none, and keeps the
outcomes and the policy. The model's own: it keeps the operand ports while idle, and counts a draw (assumptions 10, 11). -/
def Obligations.HandOverPresentsTheNextTransaction : Prop :=
  ∀ s : State,
    s.advance.delivered = s.delivered ∧ s.advance.truncPolicy = s.truncPolicy ∧ s.advance.draw = s.draw + 1 ∧
    (∀ (tx : Transaction) (later : List Transaction), s.queue = tx :: later →
      s.advance.inValid = true ∧ s.advance.frame = tx.frame ∧ s.advance.rxLen = tx.n ∧
      s.advance.redriven = tx.redriven ∧ s.advance.queue = later) ∧
    (s.queue = [] → s.advance.inValid = false ∧ s.advance.frame = s.frame ∧ s.advance.rxLen = s.rxLen ∧
      s.advance.redriven = s.redriven ∧ s.advance.queue = [])

/-- R98: `n = 0` yields `ShortFrame`, whatever the frame holds. -/
def Obligations.ZeroLengthYieldsShortFrame : Prop :=
  ∀ s : State, s.inValid = true → s.held = true → s.rxLen.toNat = 0 →
    step s = .next (State.advance { s with delivered := s.delivered ++ [.shortFrame] })

/-- R101: `n` in 33 to 63 yields `LengthOutOfRange` with `n`, whatever the frame holds. -/
def Obligations.LengthAboveFrameYieldsLengthOutOfRange : Prop :=
  ∀ s : State, s.inValid = true → s.held = true → 33 ≤ s.rxLen.toNat →
    step s = .next (State.advance { s with delivered := s.delivered ++ [.lengthOutOfRange s.rxLen] })

/-- R65: the machine (decoder, dispatch, the meanings) refines DECODE: from every state that presents a transaction with
held operands, one step delivers DECODE's outcome and hands over. -/
def Obligations.StepRefinesDecode : Prop :=
  ∀ s : State, s.inValid = true → s.held = true →
    step s = .next (s.deliver (decodeTransaction s.truncPolicy s.B s.rxLen)).advance

/-- R11, R70, R120: a step answers a next state unless the operands change while a transaction is presented; then, and
only then, it is refused. -/
def Obligations.StepRefusesOnlyChangedOperands : Prop :=
  ∀ s : State,
    (step s = .refused .operandsChanged ↔ s.inValid = true ∧ ∃ x ∈ s.redriven, x ≠ s.operands) ∧
    (step s ≠ .refused .operandsChanged → ∃ t : State, step s = .next t ∧
      t.delivered.length = s.delivered.length + (if s.inValid then 1 else 0))

/-- R13, R71, R72: the outcome of a transaction depends on its own 32 bytes, its `n` and the policy alone. -/
def Obligations.OutcomeDependsOnItsOwnOperandsOnly : Prop :=
  ∀ s s' : State, s.inValid = true → s'.inValid = true → s.held = true → s'.held = true →
    (∀ o : Fin 32, s.B o = s'.B o) → s.rxLen = s'.rxLen → s.truncPolicy = s'.truncPolicy →
    ∃ (out : FrameOutcome) (t t' : State), step s = .next t ∧ step s' = .next t' ∧
      t.delivered = s.delivered ++ [out] ∧ t'.delivered = s'.delivered ++ [out]

/-- R12, R128, R106: a run delivers exactly one outcome per presented transaction, in presentation order, each the DECODE of
its own operands, whatever the outcomes before it were. -/
def Obligations.RunDeliversEveryOutcomeInOrder : Prop :=
  ∀ s : State, s.presented.all (·.held) = true →
    ∃ t : State, Host.Core.run Sys2Proof.core (s.queue.length + 1) s = .next t ∧
      t.delivered = s.delivered ++ s.presented.map (·.outcome s.truncPolicy) ∧
      t.inValid = false ∧ t.queue = [] ∧ t.truncPolicy = s.truncPolicy

/-- R26, R107: no step changes the policy or an outcome delivered before. -/
def Obligations.StepKeepsPolicyAndHistory : Prop :=
  ∀ s t : State, step s = .next t → t.truncPolicy = s.truncPolicy ∧ s.delivered <+: t.delivered

/-- Every step keeps the invariant: the buffers are canonical, and the outcomes delivered are those R21 allows. -/
def Obligations.StepKeepsTheInvariant : Prop :=
  ∀ s t : State, s.inv = true → step s = .next t → t.inv = true

/-- Reset meets the invariant. R29 says that there is no reset value to state: that the buffer on the ports, what is redriven
and the queue are empty after reset is the MODEL'S CHOICE (assumption 3), and so is the canonical form the invariant asks of
them (assumption 2). -/
def Obligations.ResetMeetsTheInvariant : Prop := State.reset.inv = true

/-- R29, R113, R114: after reset nothing is delivered, the policy is the default, the block is idle with `out_valid` 0, and
steps stay idle. That nothing is presented after reset is the model's choice (assumption 3). -/
def Obligations.ResetIsIdle : Prop :=
  State.reset.delivered = [] ∧ State.reset.truncPolicy = .preserve ∧ State.reset.outPorts.outValid = 0#1 ∧
  ∃ t : State, step State.reset = .next t ∧ t.delivered = [] ∧ t.outPorts.outValid = 0#1

/-! ### The environment -/

/-- R118, R119, R120: with a reader that meets its obligations, a presented transaction yields neither `ShortFrame` nor
`LengthOutOfRange`, no step is refused, and the reader's remaining transactions still meet them. -/
def Obligations.LawfulReaderGetsContractOutcomes : Prop :=
  ∀ s : State, s.lawful = true → ∃ t : State, step s = .next t ∧ t.lawful = true ∧
    (s.inValid = true → ∃ out : FrameOutcome, t.delivered = s.delivered ++ [out] ∧ out ≠ .shortFrame ∧
      ∀ m : Len, out ≠ .lengthOutOfRange m)

/-- The environment's fault mark is set by a transaction with `n > 32` and by nothing else, and never cleared. The mark is the
MODEL'S CHOICE (assumption 5): the block has no sticky error, and R106 speaks of a never-cleared mark only as one that a
model may keep and should then reserve for `LengthOutOfRange` (R101). -/
def Obligations.EnvironmentFaultMarkIsStickyAndExact : Prop :=
  ∀ s t : State, step s = .next t →
    (t.environmentFault = true ↔ s.environmentFault = true ∨ (s.inValid = true ∧ 33 ≤ s.rxLen.toNat))

/-! ### The ports -/

/-- R30, R124: a sink that reads only the meaningful ports receives exactly DECODE's outcome while a transaction is presented,
and nothing while none is. It holds for every value of the ports that are not meaningful. -/
def Obligations.PortsCarryTheOutcome : Prop :=
  ∀ s : State, s.held = true →
    s.outPorts.observe s.rxLen =
      if s.inValid then some (decodeTransaction s.truncPolicy s.B s.rxLen) else none

/-- R30, R97: `out_valid` equals `in_valid`; the `kind` codes 0 to 6 by their causes (0, 1 and 2 by the tag, where the policy
does not truncate); 7 is never produced; `tag_raw` is `B[n-1]` wherever that byte exists. -/
def Obligations.KindAndTagPorts : Prop :=
  ∀ s : State, (s.outPorts.outValid = 1#1 ↔ s.inValid = true) ∧
    (s.inValid = true → s.held = true →
      s.outPorts.kind ≠ 7#3 ∧
      (s.outPorts.kind = 4#3 ↔ s.rxLen.toNat = 0) ∧
      (s.outPorts.kind = 5#3 ↔ 33 ≤ s.rxLen.toNat) ∧
      ∀ o : Fin 32, o.val + 1 = s.rxLen.toNat →
        s.outPorts.tagRaw = s.B o ∧
        (s.outPorts.kind = 0#3 ↔ s.B o = 0x00#8 ∧ (s.truncPolicy = .preserve ∨ s.rxLen.toNat = 32)) ∧
        (s.outPorts.kind = 1#3 ↔ s.B o = 0x01#8 ∧ (s.truncPolicy = .preserve ∨ s.rxLen.toNat = 32)) ∧
        (s.outPorts.kind = 2#3 ↔ s.B o = 0x0F#8 ∧ (s.truncPolicy = .preserve ∨ s.rxLen.toNat = 32)) ∧
        (s.outPorts.kind = 3#3 ↔ s.B o ≠ 0x00#8 ∧ s.B o ≠ 0x01#8 ∧ s.B o ≠ 0x0F#8) ∧
        (s.outPorts.kind = 6#3 ↔ s.truncPolicy = .fault ∧ s.rxLen.toNat < 32 ∧
          (s.B o = 0x00#8 ∨ s.B o = 0x01#8 ∨ s.B o = 0x0F#8)))

/-- R30, 92_eei_decisions.md D2: byte `B[i]` is bits `8i+7` to `8i` of the `frame` port, and LE32(o) is the plain slice of
32 bits at `8o`. -/
def Obligations.FramePortPacksTheBytes : Prop :=
  ∀ B : Frame,
    (∀ i : Fin 32, (framePort B).extractLsb' (8 * i.val) 8 = B i) ∧
    (∀ o : Fin 29, (framePort B).extractLsb' (8 * o.val) 32 = le32 B o)

/-! ### The frame buffer and the notation -/

/-- R14: the canonical lists are exactly the 32-byte frames: each frame has one buffer and only one. -/
def Obligations.EveryFrameHasExactlyOneBuffer : Prop :=
  ∀ B : Frame, ∃ m : Memory, m.wf = true ∧ m.view = B ∧ ∀ m' : Memory, m'.wf = true → m'.view = B → m' = m

/-- R93, R79 (with R63's builder): a System frame built from three little-endian fields and a tick counter, over any fill,
decodes to exactly those values under both policies. -/
def Obligations.SystemFieldsRoundTripThroughTheBuilder : Prop :=
  ∀ (policy : TruncPolicy) (fill : Byte) (d i t k : U32),
    ∃ tx : Transaction,
      ({ n := 32#6, fill := fill,
         groups := [{ off := 0, items := [.le32 d, .le32 i, .le32 t] }, { off := 27, items := [.le32 k] },
           { off := 31, items := [.byte 0x0F#8] }] } : FrameBuilder).expand = some tx ∧
      tx.outcome policy = .sys { tickDelta := d, tickIdleTime := i, totalTickTime := t } k

/-- R62, 92_eei_decisions.md D13: the canonical line is one-to-one onto the operands. Every `n` with 32 bytes is that of a
transaction with a canonical buffer; every such transaction, with nothing redriven, is the one its own `n` and bytes give;
and two transactions with the same line, as text, have the same `n` and the same bytes. -/
def Obligations.CanonicalLineCarriesTheOperands : Prop :=
  (∀ (n : Len) (bytes : List Byte), bytes.length = 32 →
    ∃ tx : Transaction, Transaction.ofBytes n bytes = some tx ∧ tx.bytes = bytes ∧ tx.n = n ∧ tx.frame.wf = true) ∧
  (∀ tx : Transaction, tx.frame.wf = true → tx.redriven = [] → Transaction.ofBytes tx.n tx.bytes = some tx) ∧
  (∀ tx tx' : Transaction, tx.line = tx'.line → tx.n = tx'.n ∧ tx.bytes = tx'.bytes)

/-- R63's own example of an expansion: its 32 bytes, and the whole canonical line (R62) that the rule prints for it. -/
def Obligations.BuilderExampleExpands : Prop :=
  ∃ tx : Transaction,
    ({ n := 32#6
       groups := [{ off := 0, items := [.byte 0x17#8, .byte 0x2D#8, .byte 0x01#8] },
         { off := 27, items := [.le32 1000#32] }, { off := 31, items := [.byte 0x00#8] }] } : FrameBuilder).expand =
      some tx ∧
    tx.bytes =
      [0x17#8, 0x2D#8, 0x01#8, 0x00#8, 0x00#8, 0x00#8, 0x00#8, 0x00#8, 0x00#8, 0x00#8, 0x00#8, 0x00#8, 0x00#8, 0x00#8,
        0x00#8, 0x00#8, 0x00#8, 0x00#8, 0x00#8, 0x00#8, 0x00#8, 0x00#8, 0x00#8, 0x00#8, 0x00#8, 0x00#8, 0x00#8, 0xE8#8,
        0x03#8, 0x00#8, 0x00#8, 0x00#8] ∧
    tx.line =
      "FRAME n=32 : 17 2D 01 00 00 00 00 00 00 00 00 00 00 00 00 00 00 00 00 00 00 00 00 00 00 00 00 E8 03 00 00 00".toList

/-- The step from a state made by `withFetchWord` runs exactly the instruction `decodeTableWord` reads (assumptions 12,
13). -/
def Obligations.FetchWordIsWhatStepRuns : Prop :=
  ∀ (s : State) (nbits w : Nat), ∃ (i : Instr) (t : State),
    decodeTableWord nbits w = some i ∧ exec i (s.withFetchWord nbits w) = .next t ∧
    step (s.withFetchWord nbits w) = .next t.advance
end

