-- ==== Sys2Proof/Laws/Decode.lean ====
section
/-! SUPPORT. The three cases of the classifier and the three cases of the decoder. -/

namespace Sys2Proof

theorem isKnownTag_iff {tag : Byte} :
    isKnownTag tag = true ↔ tag = Config.tagEnv ∨ tag = Config.tagBal ∨ tag = Config.tagSys := by
  simp [isKnownTag, knownTags]

/-- An unknown tag is none of the three constants. -/
theorem isKnownTag_eq_false {tag : Byte} :
    isKnownTag tag = false ↔ tag ≠ Config.tagEnv ∧ tag ≠ Config.tagBal ∧ tag ≠ Config.tagSys := by
  simp [isKnownTag, knownTags]

/-- The classifier makes only well-formed instructions. -/
theorem classify_wellFormed (tag : Byte) : (classify tag).wellFormed = true := by
  unfold classify
  split
  · rfl
  · split
    · rfl
    · split
      · rfl
      · next h1 h2 h3 => simp [Instr.wellFormed, isKnownTag_eq_false.2 ⟨h1, h2, h3⟩]

/-- Encoding what was classified gives the tag back: no bit of the tag is lost. -/
theorem encode_classify (tag : Byte) : encode (classify tag) = tag := by
  unfold classify
  split
  · next h => exact h.symm
  · split
    · next h => exact h.symm
    · split
      · next h => exact h.symm
      · rfl

theorem decode_zero {B : Frame} {n : Len} (h : n.toNat = 0) : decode B n = .error .shortFrame := by
  simp [decode, h]

theorem decode_above {B : Frame} {n : Len} (h : 32 < n.toNat) : decode B n = .error (.lengthOutOfRange n) := by
  have h0 : n.toNat ≠ 0 := by omega
  simp [decode, h0, h]

theorem decode_inside {B : Frame} {n : Len} (h1 : 1 ≤ n.toNat) (h2 : n.toNat ≤ 32) :
    decode B n = .ok (classify (tagsel B n h1 h2)) := by
  have h0 : n.toNat ≠ 0 := by omega
  have h3 : ¬ 32 < n.toNat := by omega
  simp [decode, h0, h3]

/-- TAGSEL is the byte one below the length. -/
theorem tagsel_eq {B : Frame} {n : Len} {o : Fin 32} (ho : o.val + 1 = n.toNat) (h1 : 1 ≤ n.toNat)
    (h2 : n.toNat ≤ 32) : tagsel B n h1 h2 = B o := by
  unfold tagsel
  congr 1
  exact Fin.ext (show n.toNat - 1 = o.val by omega)

/-- Where `n - 1` is an offset of the frame, the decoder classifies the byte there. -/
theorem decode_at {B : Frame} {n : Len} {o : Fin 32} (ho : o.val + 1 = n.toNat) :
    decode B n = .ok (classify (B o)) := by
  have := o.isLt
  rw [decode_inside (by omega) (by omega), tagsel_eq ho]

/-- Every length is 0, or above the frame, or one more than an offset of it. -/
theorem length_cases (n : Len) : n.toNat = 0 ∨ 33 ≤ n.toNat ∨ ∃ o : Fin 32, o.val + 1 = n.toNat := by
  by_cases h0 : n.toNat = 0
  · exact .inl h0
  by_cases h1 : 33 ≤ n.toNat
  · exact .inr (.inl h1)
  exact .inr (.inr ⟨⟨n.toNat - 1, by omega⟩, by show n.toNat - 1 + 1 = _; omega⟩)

end Sys2Proof
end

