-- ==== Sys2Proof/Laws/State.lean ====
section
/-! SUPPORT. The field of each update: what delivering an outcome, presenting a transaction and handing over to the next one
leave in each field of the state. -/

namespace Sys2Proof.Machine

@[simp] theorem deliver_inValid (s : State) (o : FrameOutcome) : (s.deliver o).inValid = s.inValid := rfl
@[simp] theorem deliver_frame (s : State) (o : FrameOutcome) : (s.deliver o).frame = s.frame := rfl
@[simp] theorem deliver_rxLen (s : State) (o : FrameOutcome) : (s.deliver o).rxLen = s.rxLen := rfl
@[simp] theorem deliver_redriven (s : State) (o : FrameOutcome) : (s.deliver o).redriven = s.redriven := rfl
@[simp] theorem deliver_queue (s : State) (o : FrameOutcome) : (s.deliver o).queue = s.queue := rfl
@[simp] theorem deliver_delivered (s : State) (o : FrameOutcome) :
    (s.deliver o).delivered = s.delivered ++ [o] := rfl
@[simp] theorem deliver_truncPolicy (s : State) (o : FrameOutcome) :
    (s.deliver o).truncPolicy = s.truncPolicy := rfl
@[simp] theorem deliver_draw (s : State) (o : FrameOutcome) : (s.deliver o).draw = s.draw := rfl
@[simp] theorem deliver_B (s : State) (o : FrameOutcome) : (s.deliver o).B = s.B := rfl

@[simp] theorem present_inValid (s : State) (t : Transaction) : (s.present t).inValid = true := rfl
@[simp] theorem present_frame (s : State) (t : Transaction) : (s.present t).frame = t.frame := rfl
@[simp] theorem present_rxLen (s : State) (t : Transaction) : (s.present t).rxLen = t.n := rfl
@[simp] theorem present_redriven (s : State) (t : Transaction) : (s.present t).redriven = t.redriven := rfl
@[simp] theorem present_queue (s : State) (t : Transaction) : (s.present t).queue = s.queue := rfl
@[simp] theorem present_delivered (s : State) (t : Transaction) : (s.present t).delivered = s.delivered := rfl
@[simp] theorem present_truncPolicy (s : State) (t : Transaction) :
    (s.present t).truncPolicy = s.truncPolicy := rfl
@[simp] theorem present_draw (s : State) (t : Transaction) : (s.present t).draw = s.draw := rfl
@[simp] theorem present_B (s : State) (t : Transaction) : (s.present t).B = t.frame.view := rfl

@[simp] theorem view_apply (m : Memory) (o : Fin 32) : m.view o = m.read o := rfl

/-- The hand-over when the reader has no further transaction. -/
theorem advance_nil {s : State} (h : s.queue = []) :
    s.advance = { s with inValid := false, draw := s.draw + 1 } := by
  simp [State.advance, h]

/-- The hand-over to the reader's next transaction. -/
theorem advance_cons {s : State} {t : Transaction} {later : List Transaction} (h : s.queue = t :: later) :
    s.advance = { s.present t with queue := later, draw := s.draw + 1 } := by
  simp [State.advance, h]

@[simp] theorem advance_delivered (s : State) : s.advance.delivered = s.delivered := by
  rcases h : s.queue with _ | ⟨t, later⟩
  · simp [advance_nil h]
  · simp [advance_cons h]

@[simp] theorem advance_truncPolicy (s : State) : s.advance.truncPolicy = s.truncPolicy := by
  rcases h : s.queue with _ | ⟨t, later⟩
  · simp [advance_nil h]
  · simp [advance_cons h]

@[simp] theorem advance_draw (s : State) : s.advance.draw = s.draw + 1 := by
  rcases h : s.queue with _ | ⟨t, later⟩
  · simp [advance_nil h]
  · simp [advance_cons h]

@[simp] theorem advance_queue (s : State) : s.advance.queue = s.queue.tail := by
  rcases h : s.queue with _ | ⟨t, later⟩
  · simp [advance_nil h, h]
  · simp [advance_cons h]

@[simp] theorem advance_inValid (s : State) : s.advance.inValid = !s.queue.isEmpty := by
  rcases h : s.queue with _ | ⟨t, later⟩
  · simp [advance_nil h]
  · simp [advance_cons h]

end Sys2Proof.Machine
end

