-- ==== Sys2Proof/Laws/Memory.lean ====
section
/-! SUPPORT. The frame buffer: a read after a write, the canonical form kept by every operation that makes a buffer, and the
bounds of a canonical list. -/

namespace Sys2Proof.Machine

@[simp] theorem Memory.wf_nil : Memory.wf [] = true := rfl

theorem Memory.wfFrom_cons {low a : Nat} {b : Byte} {rest : Memory} :
    Memory.wfFrom low ((a, b) :: rest) = true ↔
      low ≤ a ∧ a < 32 ∧ b ≠ Memory.unlisted ∧ Memory.wfFrom (a + 1) rest = true := by
  simp [Memory.wfFrom, and_assoc]

/-- A list that is canonical from an offset on is canonical from any lower one on. -/
theorem Memory.wfFrom_mono {m : Memory} {low low' : Nat} (hl : low' ≤ low)
    (h : Memory.wfFrom low m = true) : Memory.wfFrom low' m = true := by
  cases m with
  | nil => rfl
  | cons e rest =>
    obtain ⟨a, b⟩ := e
    rw [Memory.wfFrom_cons] at h ⊢
    exact ⟨hl.trans h.1, h.2⟩

/-- Below its first offset a canonical list has no entry. -/
theorem Memory.read_below {m : Memory} {low : Nat} (h : Memory.wfFrom low m = true) {o : Fin 32}
    (ho : o.val < low) : m.read o = Memory.unlisted := by
  induction m generalizing low with
  | nil => rfl
  | cons e rest ih =>
    obtain ⟨a, b⟩ := e
    obtain ⟨hla, -, -, hrest⟩ := Memory.wfFrom_cons.1 h
    have hne : a ≠ o.val := by omega
    simp only [Memory.read, if_neg hne]
    exact ih hrest (by omega)

/-- Writing keeps the canonical form, from any offset up to the one written. -/
theorem Memory.wfFrom_write {m : Memory} {low : Nat} (h : Memory.wfFrom low m = true) {o : Fin 32}
    (ho : low ≤ o.val) (b : Byte) : Memory.wfFrom low (m.write o b) = true := by
  induction m generalizing low with
  | nil =>
    simp only [Memory.write]
    split
    · rfl
    · next hb => exact Memory.wfFrom_cons.2 ⟨ho, o.isLt, hb, rfl⟩
  | cons e rest ih =>
    obtain ⟨a, c⟩ := e
    obtain ⟨hla, ha, hc, hrest⟩ := Memory.wfFrom_cons.1 h
    simp only [Memory.write]
    split
    · next hlt =>
      split
      · exact h
      · next hb =>
        exact Memory.wfFrom_cons.2 ⟨ho, o.isLt, hb, Memory.wfFrom_cons.2 ⟨by omega, ha, hc, hrest⟩⟩
    · split
      · next hne heq =>
        split
        · exact Memory.wfFrom_mono (by omega) hrest
        · next hb => exact Memory.wfFrom_cons.2 ⟨ho, o.isLt, hb, heq ▸ hrest⟩
      · next hnlt hne => exact Memory.wfFrom_cons.2 ⟨hla, ha, hc, ih hrest (by omega)⟩

/-- Writing keeps the canonical form. -/
theorem Memory.wf_write {m : Memory} (h : m.wf = true) (o : Fin 32) (b : Byte) : (m.write o b).wf = true :=
  Memory.wfFrom_write h (Nat.zero_le _) b

/-- In a canonical list, reading an offset after a write gives the byte written there and leaves every other offset. -/
theorem Memory.read_write_from {m : Memory} {low : Nat} (h : Memory.wfFrom low m = true) (o o' : Fin 32)
    (b : Byte) : (m.write o b).read o' = if o' = o then b else m.read o' := by
  induction m generalizing low with
  | nil =>
    by_cases hb : b = Memory.unlisted
    · simp [Memory.write, Memory.read, hb]
    · simp [Memory.write, Memory.read, hb, Fin.ext_iff, eq_comm (a := o.val)]
  | cons e rest ih =>
    obtain ⟨a, c⟩ := e
    obtain ⟨hla, ha, hc, hrest⟩ := Memory.wfFrom_cons.1 h
    have hlow : ∀ {p : Fin 32}, p.val ≤ a → Memory.read rest p = Memory.unlisted := fun hp =>
      Memory.read_below hrest (by omega)
    by_cases ho : o' = o
    · subst ho
      simp only [Memory.write, if_pos]
      split
      · next hlt =>
        split
        · next hb => simp [Memory.read, show a ≠ o'.val by omega, hlow (p := o') (by omega), hb]
        · simp [Memory.read]
      · split
        · next heq =>
          split
          · next hb => rw [hlow (p := o') (by omega), hb]
          · simp [Memory.read]
        · next hnlt hne =>
          have hih := ih hrest
          simp only [if_true] at hih
          simp only [Memory.read]
          rw [if_neg (by omega)]
          exact hih
    · have hv : o.val ≠ o'.val := fun h => ho (Fin.ext h.symm)
      simp only [Memory.write, if_neg ho]
      split
      · split
        · rfl
        · simp [Memory.read, hv]
      · split
        · next hnlt heq =>
          split
          · simp [Memory.read, show a ≠ o'.val by omega]
          · simp [Memory.read, hv, show a ≠ o'.val by omega]
        · simp only [Memory.read]
          split
          · rfl
          · have hih := ih hrest
            simp only [if_neg ho] at hih
            exact hih

/-- Read after write, on a canonical buffer. -/
theorem Memory.read_write {m : Memory} (h : m.wf = true) (o o' : Fin 32) (b : Byte) :
    (m.write o b).read o' = if o' = o then b else m.read o' :=
  Memory.read_write_from h o o' b

/-- Writing a row of bytes keeps the canonical form. -/
theorem Memory.wf_writeBytes {m m' : Memory} {off : Nat} {bytes : List Byte} (h : m.wf = true)
    (hw : m.writeBytes off bytes = some m') : m'.wf = true := by
  induction bytes generalizing m off with
  | nil => simp only [Memory.writeBytes, Option.some.injEq] at hw; exact hw ▸ h
  | cons b rest ih =>
    simp only [Memory.writeBytes] at hw
    split at hw
    · exact ih (Memory.wf_write h _ b) hw
    · exact absurd hw (by simp)

/-- Writing the groups of a builder line keeps the canonical form. -/
theorem Memory.wf_writeGroups {m m' : Memory} {groups : List FrameGroup} (h : m.wf = true)
    (hw : m.writeGroups groups = some m') : m'.wf = true := by
  induction groups generalizing m with
  | nil => simp only [Memory.writeGroups, Option.some.injEq] at hw; exact hw ▸ h
  | cons g rest ih =>
    simp only [Memory.writeGroups] at hw
    split at hw
    · next m1 h1 => exact ih (Memory.wf_writeBytes h h1) hw
    · exact absurd hw (by simp)

/-- A row of equal writes keeps the canonical form. -/
theorem Memory.wf_foldl_write (b : Byte) (os : List (Fin 32)) {m : Memory} (h : m.wf = true) :
    (os.foldl (fun m o => m.write o b) m).wf = true := by
  induction os generalizing m with
  | nil => exact h
  | cons o rest ih => exact ih (Memory.wf_write h o b)

/-- A filled buffer is canonical. -/
theorem Memory.wf_filled (b : Byte) : (Memory.filled b).wf = true := Memory.wf_foldl_write b _ Memory.wf_nil

/-- Reset's buffer is canonical. -/
theorem reset_frame_wf : State.reset.frame.wf = true := rfl

end Sys2Proof.Machine
end

