-- ==== Sys2Proof/Laws/Ops.lean ====
section
/-! SUPPORT. One lemma per shared operation, saying once everything it can do. -/

namespace Sys2Proof.Machine

@[simp] theorem setOut_eq (o : FrameOutcome) (s : State) : setOut o s = .next (s.deliver o) := rfl

@[simp] theorem raise_eq (o : FrameOutcome) (s : State) : raise o s = .next (s.deliver o) := rfl

@[simp] theorem finish_next (t : State) : finish (.next t) = .next t.advance := rfl

/-- `finish` goes on only from a next state. -/
theorem finish_eq_next {x : Host.Outcome State Fault Refusal} {t : State} (h : finish x = .next t) :
    ∃ u, x = .next u ∧ t = u.advance := by
  cases x with
  | next u => simp only [finish_next, Host.Outcome.next.injEq] at h; exact ⟨u, rfl, h.symm⟩
  | fault r => exact nomatch r
  | refused r => exact absurd h (by simp [finish])

@[simp] theorem truncates_preserve (n : Len) : truncates .preserve n = false := rfl

@[simp] theorem truncates_fault (n : Len) : truncates .fault n = decide (n.toNat < 32) := rfl

theorem truncates_iff {policy : TruncPolicy} {n : Len} :
    truncates policy n = true ↔ policy = .fault ∧ n.toNat < 32 := by
  cases policy <;> simp

/-- Where the policy preserves, or the read is not short, nothing is truncated. -/
theorem truncates_eq_false {policy : TruncPolicy} {n : Len} (h : policy = .preserve ∨ 32 ≤ n.toNat) :
    truncates policy n = false := by
  rcases h with h | h
  · rw [h, truncates_preserve]
  · cases policy <;> simp [h]

/-- A known-tag operation either truncates or delivers its record; it does nothing else. -/
theorem knownTag_eq (tag : Byte) (record : Frame → U32 → FrameOutcome) (s : State) :
    knownTag tag record s =
      .next (s.deliver
        (if truncates s.truncPolicy s.rxLen then .truncatedPayload s.rxLen tag else record s.B (tick s.B))) := by
  unfold knownTag
  split <;> rfl

/-- The outcome each instruction delivers. -/
def instrOutcome (s : State) : Instr → FrameOutcome
  | .env => if truncates s.truncPolicy s.rxLen then .truncatedPayload s.rxLen Config.tagEnv else envRecord s.B (tick s.B)
  | .bal => if truncates s.truncPolicy s.rxLen then .truncatedPayload s.rxLen Config.tagBal else balRecord s.B (tick s.B)
  | .sys => if truncates s.truncPolicy s.rxLen then .truncatedPayload s.rxLen Config.tagSys else sysRecord s.B (tick s.B)
  | .unk tag => .unrecognizedTag tag

/-- What an instruction can do: deliver one outcome. -/
theorem exec_eq (i : Instr) (s : State) : exec i s = .next (s.deliver (instrOutcome s i)) := by
  cases i with
  | env => exact knownTag_eq _ _ _
  | bal => exact knownTag_eq _ _ _
  | sys => exact knownTag_eq _ _ _
  | unk tag => rfl

end Sys2Proof.Machine
end

