-- ==== Sys2Proof/Laws/PerInstr.lean ====
section
/-! SUPPORT. Statements made of every instruction, one lemma per constructor. -/

/-- The family: classifying the encoding of a well-formed instruction gives the instruction back. -/
def Sys2Proof.Laws.TagRoundTrip.Statement (i : Sys2Proof.Instr) : Prop :=
  i.wellFormed = true → Sys2Proof.classify (Sys2Proof.encode i) = i

theorem Sys2Proof.Laws.TagRoundTrip.env : Sys2Proof.Laws.TagRoundTrip.Statement .env := fun _ => by decide

theorem Sys2Proof.Laws.TagRoundTrip.bal : Sys2Proof.Laws.TagRoundTrip.Statement .bal := fun _ => by decide

theorem Sys2Proof.Laws.TagRoundTrip.sys : Sys2Proof.Laws.TagRoundTrip.Statement .sys := fun _ => by decide

theorem Sys2Proof.Laws.TagRoundTrip.unk (tag : Sys2Proof.Byte) :
    Sys2Proof.Laws.TagRoundTrip.Statement (.unk tag) := by
  intro h
  have hk : Sys2Proof.isKnownTag tag = false := by simpa [Sys2Proof.Instr.wellFormed] using h
  obtain ⟨h1, h2, h3⟩ := Sys2Proof.isKnownTag_eq_false.1 hk
  simp [Sys2Proof.encode, Sys2Proof.classify, h1, h2, h3]
end

