-- ==== Sys2Proof/Laws/Step.lean ====
section
/-! SUPPORT. What a step can do, said once: idle, refuse, reject a length, or run an instruction. -/

namespace Sys2Proof.Machine

theorem step_idle {s : State} (h : s.inValid = false) : step s = .next s.advance := by
  simp [step, h]

theorem step_changed {s : State} (hv : s.inValid = true) (hh : s.held = false) :
    step s = .refused .operandsChanged := by
  simp [step, hv, hh]

theorem step_rejected {s : State} {e : DecodeError} (hv : s.inValid = true) (hh : s.held = true)
    (hd : decode s.B s.rxLen = .error e) : step s = .next (s.deliver (lengthOutcome e)).advance := by
  simp [step, hv, hh, hd]

theorem step_decoded {s : State} {i : Instr} (hv : s.inValid = true) (hh : s.held = true)
    (hd : decode s.B s.rxLen = .ok i) : step s = .next (s.deliver (instrOutcome s i)).advance := by
  simp [step, hv, hh, hd, exec_eq]

/-- A step that answers a next state was idle, rejected a length, or ran the decoded instruction; in each case the reader
then went on to its next transaction. -/
theorem step_cases {s t : State} (h : step s = .next t) :
    (s.inValid = false ∧ t = s.advance) ∨
    (s.inValid = true ∧ s.held = true ∧ ∃ e, decode s.B s.rxLen = .error e ∧
      t = (s.deliver (lengthOutcome e)).advance) ∨
    (s.inValid = true ∧ s.held = true ∧ ∃ i, decode s.B s.rxLen = .ok i ∧
      t = (s.deliver (instrOutcome s i)).advance) := by
  by_cases hv : s.inValid = true
  · by_cases hh : s.held = true
    · cases hd : decode s.B s.rxLen with
      | error e =>
        rw [step_rejected hv hh hd, Host.Outcome.next.injEq] at h
        exact .inr (.inl ⟨hv, hh, e, rfl, h.symm⟩)
      | ok i =>
        rw [step_decoded hv hh hd, Host.Outcome.next.injEq] at h
        exact .inr (.inr ⟨hv, hh, i, rfl, h.symm⟩)
    · rw [step_changed hv (by simpa using hh)] at h
      exact absurd h (by simp)
  · have hf : s.inValid = false := by simpa using hv
    rw [step_idle hf, Host.Outcome.next.injEq] at h
    exact .inl ⟨hf, h.symm⟩

end Sys2Proof.Machine
end

