-- ==== Sys2Proof/Laws/Run.lean ====
section
/-! SUPPORT. Unfolding a run of the machine by one step. -/

namespace Sys2Proof.Machine

@[simp] theorem run_zero (s : State) : Host.Core.run Sys2Proof.core 0 s = .next s := rfl

/-- A run whose first step answers a next state goes on from there. -/
theorem run_succ {s t : State} (h : step s = .next t) (k : Nat) :
    Host.Core.run Sys2Proof.core (k + 1) s = Host.Core.run Sys2Proof.core k t := by
  have hs : Sys2Proof.core.step s = .next t := h
  simp only [Host.Core.run, hs]

end Sys2Proof.Machine
end

