-- ==== Sys2Proof/Laws/Transaction.lean ====
section
/-! SUPPORT. DECODE by the three cases of the length. -/

namespace Sys2Proof.Machine

theorem decodeTransaction_zero {policy : TruncPolicy} {B : Frame} {n : Len} (h : n.toNat = 0) :
    decodeTransaction policy B n = .shortFrame := by
  simp [decodeTransaction, h]

theorem decodeTransaction_above {policy : TruncPolicy} {B : Frame} {n : Len} (h : 33 ≤ n.toNat) :
    decodeTransaction policy B n = .lengthOutOfRange n := by
  have h0 : n.toNat ≠ 0 := by omega
  have h1 : 32 < n.toNat := by omega
  simp [decodeTransaction, h0, h1]

/-- Where `n - 1` is an offset of the frame, DECODE is its lines 4 to 7 on the byte there. -/
theorem decodeTransaction_at {policy : TruncPolicy} {B : Frame} {n : Len} {o : Fin 32} (h : o.val + 1 = n.toNat) :
    decodeTransaction policy B n =
      if B o ≠ Config.tagEnv ∧ B o ≠ Config.tagBal ∧ B o ≠ Config.tagSys then .unrecognizedTag (B o)
      else if policy = .fault ∧ n.toNat < 32 then .truncatedPayload n (B o)
      else if B o = Config.tagEnv then envRecord B (tick B)
      else if B o = Config.tagBal then balRecord B (tick B)
      else sysRecord B (tick B) := by
  have h0 : n.toNat ≠ 0 := by omega
  have h1 : ¬ 32 < n.toNat := by omega
  simp only [decodeTransaction, h0, h1, dite_false, tagsel_eq h]

end Sys2Proof.Machine
end

