-- ==== Sys2Proof/Tests/Slice0.lean ====
section
/-! SUPPORT. The model's own tests: the ill-formed instructions refused, tag bytes written out from the tag map, single steps
on vectors of 95_test_vectors.md (expected outcomes copied from it), and for every statement that has hypotheses a witness
that meets them all. -/

namespace Sys2Proof.Tests

open Sys2Proof Sys2Proof.Machine

/-- The tail of a frame line: `k` equal bytes. -/
def row (k : Nat) (b : Byte) : List Byte := List.replicate k b

/-- A state that presents one frame line, after reset, under a policy. -/
def shown (policy : TruncPolicy) (n : Len) (bytes : List Byte) : State :=
  match Transaction.ofBytes n bytes with
  | some tx => { State.reset.present tx with truncPolicy := policy }
  | none => State.reset

/-- The outcome a step delivered last. -/
def answered : Host.Outcome State Fault Refusal → Option FrameOutcome
  | .next t => t.delivered.getLast?
  | .fault _ => none
  | .refused _ => none

/-! ### Well-formed instructions -/

theorem test_unk_refuses_environment_tag : (Instr.unk 0x00#8).wellFormed = false := by decide
theorem test_unk_refuses_ballast_tag : (Instr.unk 0x01#8).wellFormed = false := by decide
theorem test_unk_refuses_system_tag : (Instr.unk 0x0F#8).wellFormed = false := by decide
theorem test_unk_admits_unknown_tag : (Instr.unk 0x42#8).wellFormed = true := by decide

/-! ### Decoding: tag bytes written out bit by bit (30_encoding.md R49, opcode_table.json) -/

theorem test_decode_env : decodeTableWord 8 0b00000000 = some .env := by decide
theorem test_decode_bal : decodeTableWord 8 0b00000001 = some .bal := by decide
theorem test_decode_sys : decodeTableWord 8 0b00001111 = some .sys := by decide
theorem test_decode_unk : decodeTableWord 8 0b01000010 = some (.unk 0x42#8) := by decide

/-- The neighbours of the known tags are unknown (40_dispatch.md R67). -/
theorem test_decode_neighbours :
    classify 0x02#8 = .unk 0x02#8 ∧ classify 0x0E#8 = .unk 0x0E#8 ∧ classify 0x10#8 = .unk 0x10#8 := by decide

/-- TAGSEL's worked example (R66, D24): `n = 13` reads offset 12. -/
theorem test_decode_moving_tag :
    decode (fun o => if o = 12 then 0x0F#8 else 0x00#8) 13#6 = .ok .sys := by decide

theorem test_decode_refuses_lengths :
    decode (fun _ => 0x01#8) 0#6 = .error .shortFrame ∧
    decode (fun _ => 0x01#8) 33#6 = .error (.lengthOutOfRange 33#6) ∧
    decode (fun _ => 0x01#8) 63#6 = .error (.lengthOutOfRange 63#6) := by decide

/-! ### Steps: vectors of 95_test_vectors.md -/

/-- D1. -/
def frameD1 : List Byte := [0x17, 0x2D, 0x01] ++ row 24 0x00 ++ [0xE8, 0x03, 0x00, 0x00, 0x00]

/-- S3, and D34, D35, D40 with other lengths. -/
def frameS3 : List Byte := [0x05, 0x09] ++ row 25 0x00 ++ [0x78, 0x56, 0x34, 0x12, 0x01]

/-- D7. -/
def frameD7 : List Byte :=
  [0x01, 0x02, 0x03, 0x04, 0xEF, 0xBE, 0xAD, 0xDE, 0x00, 0x00, 0x00, 0x80] ++ row 15 0x00 ++ [0x00, 0x00, 0x01, 0x00, 0x0F]

/-- D18. -/
def frameD18 : List Byte := [0x00] ++ row 31 0xAA

/-- D28. -/
def frameD28 : List Byte := [0x00, 0x00, 0x00, 0x42] ++ row 28 0x00

/-- D29. -/
def frameD29 : List Byte :=
  [0x01, 0x00, 0x00, 0x00, 0x02, 0x00, 0x00, 0x00, 0x03, 0x00, 0x00, 0x00] ++ row 15 0x00 ++ [0x0F, 0x11, 0x22, 0x33, 0x99]

/-- D31 and D38. -/
def frameD31 : List Byte := [0x07, 0x08] ++ row 25 0x00 ++ [0xEF, 0xCD, 0xAB, 0x01, 0x0F]

/-- S5. -/
def frameS5 : List Byte := [0x01, 0x02] ++ row 25 0x00 ++ [0x4D, 0x00, 0x00, 0x00, 0x42]

theorem test_env_D1 : answered (step (shown .preserve 32 frameD1)) =
    some (.env { internalTemperatureC := 23, internalHumidityPercent := 45, isStale := false } 1000) := by decide

theorem test_env_D18_tag_is_temperature : answered (step (shown .preserve 1 frameD18)) =
    some (.env { internalTemperatureC := 0, internalHumidityPercent := 170, isStale := false } 2863311530) := by decide

theorem test_bal_S3 : answered (step (shown .preserve 32 frameS3)) =
    some (.bal { currentState := 5, targetState := 9 } 305419896) := by decide

theorem test_bal_D31_tag_is_tick_byte : answered (step (shown .preserve 31 frameD31)) =
    some (.bal { currentState := 7, targetState := 8 } 28036591) := by decide

theorem test_sys_D7 : answered (step (shown .preserve 32 frameD7)) =
    some (.sys { tickDelta := 67305985, tickIdleTime := 3735928559, totalTickTime := 2147483648 } 65536) := by decide

theorem test_sys_D29_tag_is_tick_byte : answered (step (shown .preserve 28 frameD29)) =
    some (.sys { tickDelta := 1, tickIdleTime := 2, totalTickTime := 3 } 857870607) := by decide

theorem test_unk_S5 : answered (step (shown .preserve 32 frameS5)) = some (.unrecognizedTag 0x42) := by decide

/-- D39: an unknown tag comes before truncation. -/
theorem test_unk_D39_under_fault : answered (step (shown .fault 4 frameD28)) = some (.unrecognizedTag 0x42) := by decide

/-- S6, D34, D35. -/
theorem test_lengths_outside_the_contract :
    answered (step (shown .preserve 0 frameS3)) = some .shortFrame ∧
    answered (step (shown .preserve 33 frameS3)) = some (.lengthOutOfRange 33) ∧
    answered (step (shown .fault 63 frameS3)) = some (.lengthOutOfRange 63) := by decide

/-- D38 and D40. -/
theorem test_fault_policy :
    answered (step (shown .fault 31 frameD31)) = some (.truncatedPayload 31 0x01) ∧
    answered (step (shown .fault 32 frameS3)) = some (.bal { currentState := 5, targetState := 9 } 305419896) := by decide

/-- R120: the operands change during the transaction. -/
theorem test_changed_operands_refused :
    step { shown .preserve 32 frameS3 with redriven := [{ frame := [], n := 32 }] } = .refused .operandsChanged := by
  rfl

/-- The primitive table of LE32 (95_test_vectors.md 2.10), four of its rows. -/
theorem test_le32_table :
    le32 (fun o => [0x01, 0x00, 0x00, 0x00].getD o.val 0x00#8) 0 = 1 ∧
    le32 (fun o => [0x00, 0x00, 0x00, 0x01].getD o.val 0x00#8) 0 = 16777216 ∧
    le32 (fun o => [0x00, 0x00, 0x00, 0x80].getD o.val 0x00#8) 0 = 2147483648 ∧
    le32 (fun o => [0xEF, 0xBE, 0xAD, 0xDE].getD o.val 0x00#8) 0 = 3735928559 := by decide

/-- The primitive table of STALE. -/
theorem test_stale_table :
    [0x00#8, 0x01#8, 0x02#8, 0x7F#8, 0x80#8, 0xFF#8].map (fun b => stale (fun _ => b) 2) =
      [true, false, false, false, false, false] := by decide

/-- Port packing of D1 (95_test_vectors.md 2.10): the meaningful ports. -/
theorem test_ports_D1 :
    (shown .preserve 32 frameD1).outPorts.kind = 0#3 ∧ (shown .preserve 32 frameD1).outPorts.tagRaw = 0x00#8 ∧
    (shown .preserve 32 frameD1).outPorts.tick = 0x000003E8#32 ∧ (shown .preserve 32 frameD1).outPorts.envTemp = 0x17#8 ∧
    (shown .preserve 32 frameD1).outPorts.envHum = 0x2D#8 ∧ (shown .preserve 32 frameD1).outPorts.envStale = 0#1 ∧
    (shown .preserve 32 frameD1).inPorts.frame.extractLsb' 216 32 = 0x000003E8#32 ∧
    (shown .preserve 32 frameD1).inPorts.rxLen = 0b100000#6 := by decide

/-- The head of D1's canonical line (30_encoding.md R62). -/
theorem test_line_D1 : ((Transaction.ofBytes 32 frameD1).map fun tx => tx.line.take 20) =
    some ['F', 'R', 'A', 'M', 'E', ' ', 'n', '=', '3', '2', ' ', ':', ' ', '1', '7', ' ', '2', 'D', ' ', '0'] := by decide

/-- The comments of D1, D34 and D38. -/
theorem test_comments :
    (answered (step (shown .preserve 32 frameD1))).map FrameOutcome.comment = some "ENV" ∧
    (answered (step (shown .preserve 33 frameS3))).map FrameOutcome.comment = some "BADLEN" ∧
    (answered (step (shown .fault 31 frameD31))).map FrameOutcome.comment = some "TRUNC" := by decide

/-! ### Witnesses of the statements' hypotheses -/

/-- A held transaction with a queue behind it and an outcome delivered before. -/
def busy : State :=
  { shown .preserve 32 frameS3 with
    redriven := [(shown .preserve 32 frameS3).operands]
    queue := [{ frame := [], n := 1 }, { frame := [(31, 0x0F#8)], n := 32 }]
    delivered := [.unrecognizedTag 0x42] }

theorem test_reset_inv : State.reset.inv = true := by decide

theorem test_witness_Le32RoundTripsAndIsInjective :
    ((fun o => [0x78#8, 0x56#8, 0x34#8, 0x12#8].getD o.val 0#8) : Frame) 0 = 0x78#8 ∧
    (0x78#8).toNat = (0x12345678#32).toNat % 256 ∧ (0x56#8).toNat = (0x12345678#32).toNat / 256 % 256 ∧
    (0x34#8).toNat = (0x12345678#32).toNat / 65536 % 256 ∧ (0x12#8).toNat = (0x12345678#32).toNat / 16777216 ∧
    le32 (fun o => if o = 31 then 1#8 else 7#8) 27 = le32 (fun _ => 7#8) 27 := by decide

theorem test_witness_EnvDeliversItsRecord :
    let s := shown .preserve 1 frameD18
    (s.truncPolicy = .preserve ∨ 32 ≤ s.rxLen.toNat) ∧ s.inValid = true ∧ s.held = true ∧
    (0 : Fin 32).val + 1 = s.rxLen.toNat ∧ s.B 0 = 0x00#8 := by decide

/-- The other alternative of the first hypothesis: a full frame under `FAULT`. -/
theorem test_witness_EnvDeliversItsRecord_full_frame :
    let s := shown .fault 32 frameD1
    32 ≤ s.rxLen.toNat ∧ s.inValid = true ∧ s.held = true ∧ (31 : Fin 32).val + 1 = s.rxLen.toNat ∧
    s.B 31 = 0x00#8 := by decide

theorem test_witness_BalDeliversItsRecord :
    let s := shown .fault 32 frameS3
    (s.truncPolicy = .preserve ∨ 32 ≤ s.rxLen.toNat) ∧ s.inValid = true ∧ s.held = true ∧
    (31 : Fin 32).val + 1 = s.rxLen.toNat ∧ s.B 31 = 0x01#8 := by decide

theorem test_witness_SysDeliversItsRecord :
    let s := shown .preserve 28 frameD29
    (s.truncPolicy = .preserve ∨ 32 ≤ s.rxLen.toNat) ∧ s.inValid = true ∧ s.held = true ∧
    (27 : Fin 32).val + 1 = s.rxLen.toNat ∧ s.B 27 = 0x0F#8 := by decide

theorem test_witness_UnkReportsTheRawTag :
    let s := shown .fault 4 frameD28
    s.inValid = true ∧ s.held = true ∧ (3 : Fin 32).val + 1 = s.rxLen.toNat ∧ s.B 3 = 0x42#8 ∧
    (0x42#8) ≠ 0x00#8 ∧ (0x42#8) ≠ 0x01#8 ∧ (0x42#8) ≠ 0x0F#8 := by decide

theorem test_witness_FaultPolicyTruncatesKnownShortReads :
    let s := shown .fault 31 frameD31
    s.truncPolicy = .fault ∧ s.rxLen.toNat < 32 ∧ (Instr.bal = .env ∨ Instr.bal = .bal ∨ Instr.bal = .sys) ∧
    s.inValid = true ∧ s.held = true ∧ (30 : Fin 32).val + 1 = s.rxLen.toNat ∧ s.B 30 = encode .bal := by decide

theorem test_witness_ExecOnlyAppendsOneOutcome : ∃ t, exec .sys busy = .next t := ⟨_, rfl⟩

theorem test_witness_OnlyTagAndFieldBytesInfluenceTheOutcome :
    let B : Frame := fun o => if o = 31 then 0x01#8 else 0x00#8
    let B' : Frame := fun o => if o = 9 then 0x01#8 else if o = 20 then 0xEE#8 else 0x00#8
    (31 : Fin 32).val + 1 = (32#6).toNat ∧ (9 : Fin 32).val + 1 = (10#6).toNat ∧ B 31 = B' 9 ∧
    ∀ k : Fin 32, k.val ∈ fieldOffsets (classify (B 31)) → B k = B' k := by decide

theorem test_witness_ShortReadTagOverlapsItsField :
    (∀ n ∈ [1#6, 2#6, 3#6, 28#6, 31#6],
      (decodeTransaction .preserve (fun _ => 0x00#8) n).env?.isSome = true) ∧
    (∀ n ∈ [1#6, 2#6, 28#6, 31#6], (decodeTransaction .preserve (fun _ => 0x01#8) n).bal?.isSome = true) ∧
    (∀ n ∈ [1#6, 4#6, 5#6, 8#6, 9#6, 12#6, 28#6, 31#6],
      (decodeTransaction .preserve (fun _ => 0x0F#8) n).sys?.isSome = true) := by decide

theorem test_witness_FaultPolicyChangesOnlyShortRecords :
    ((decodeTransaction .preserve (fun _ => 0x01#8) 31#6).isRecord = true ∧ (31#6).toNat < 32) ∧
    ¬((decodeTransaction .preserve (fun _ => 0x01#8) 32#6).isRecord = true ∧ (32#6).toNat < 32) := by decide

theorem test_witness_AllZeroBufferIsAStaleEnvironmentFrame :
    (1 ≤ (1#6).toNat ∧ (1#6).toNat ≤ 32) ∧ (1 ≤ (32#6).toNat ∧ (32#6).toNat ≤ 32) := by decide

theorem test_witness_StepRunsTheDecodedInstruction :
    busy.inValid = true ∧ busy.held = true ∧ decode busy.B busy.rxLen = .ok .bal := by decide

theorem test_witness_IdleStepOnlyHandsOver : State.reset.inValid = false := by decide

theorem test_witness_HandOverPresentsTheNextTransaction :
    busy.queue = { frame := [], n := 1 } :: [{ frame := [(31, 0x0F#8)], n := 32 }] ∧ State.reset.queue = [] := by decide

theorem test_witness_ZeroLengthYieldsShortFrame :
    let s := shown .preserve 0 frameS3
    s.inValid = true ∧ s.held = true ∧ s.rxLen.toNat = 0 := by decide

theorem test_witness_LengthAboveFrameYieldsLengthOutOfRange :
    let s := shown .preserve 33 frameS3
    let s' := shown .preserve 63 frameS3
    (s.inValid = true ∧ s.held = true ∧ 33 ≤ s.rxLen.toNat) ∧
    (s'.inValid = true ∧ s'.held = true ∧ 33 ≤ s'.rxLen.toNat) := by decide

theorem test_witness_StepRefinesDecode : busy.inValid = true ∧ busy.held = true := by decide

theorem test_witness_StepRefusesOnlyChangedOperands :
    step State.reset ≠ .refused .operandsChanged ∧ step busy ≠ .refused .operandsChanged :=
  ⟨nofun, nofun⟩

theorem test_witness_OutcomeDependsOnItsOwnOperandsOnly :
    let s := shown .preserve 32 frameS3
    s.inValid = true ∧ busy.inValid = true ∧ s.held = true ∧ busy.held = true ∧ (∀ o : Fin 32, s.B o = busy.B o) ∧
    s.rxLen = busy.rxLen ∧ s.truncPolicy = busy.truncPolicy := by decide

theorem test_witness_RunDeliversEveryOutcomeInOrder : busy.presented.all (·.held) = true := by decide

theorem test_witness_StepKeepsPolicyAndHistory : ∃ t, step busy = .next t := ⟨_, rfl⟩

theorem test_witness_StepKeepsTheInvariant : busy.inv = true ∧ ∃ t, step busy = .next t := ⟨by decide, _, rfl⟩

theorem test_witness_LawfulReaderGetsContractOutcomes : busy.lawful = true ∧ busy.inValid = true := by decide

theorem test_witness_EnvironmentFaultMarkIsStickyAndExact :
    let s := shown .preserve 33 frameS3
    (∃ t, step s = .next t ∧ t.environmentFault = true) ∧ s.inValid = true ∧ 33 ≤ s.rxLen.toNat :=
  ⟨⟨_, rfl, by decide⟩, by decide⟩

theorem test_witness_PortsCarryTheOutcome : busy.held = true := by decide

theorem test_witness_KindAndTagPorts :
    busy.inValid = true ∧ busy.held = true ∧ (31 : Fin 32).val + 1 = busy.rxLen.toNat := by decide

/-- Each `kind` code at a boundary length; under `FAULT` the kinds 0 to 2 at `n = 32` and 6 at `n = 31`. -/
theorem test_kind_codes :
    (shown .preserve 1 frameD18).outPorts.kind = 0#3 ∧ (shown .fault 32 frameS3).outPorts.kind = 1#3 ∧
    (shown .fault 32 frameD31).outPorts.kind = 2#3 ∧ (shown .fault 4 frameD28).outPorts.kind = 3#3 ∧
    (shown .fault 0 frameS3).outPorts.kind = 4#3 ∧ (shown .fault 33 frameS3).outPorts.kind = 5#3 ∧
    (shown .fault 31 frameD31).outPorts.kind = 6#3 := by decide

theorem test_witness_EveryFrameHasExactlyOneBuffer :
    Memory.wf [(31, 0x0F#8)] = true ∧ ∀ o : Fin 32, Memory.view [(31, 0x0F#8)] o = if o = 31 then 0x0F#8 else 0#8 := by
  decide

theorem test_witness_CanonicalLineCarriesTheOperands : frameD1.length = 32 := by decide

/-- The second and the third clause: a canonical transaction, and one with the same line though its buffer is another
list. -/
theorem test_witness_CanonicalLineCarriesTheOperands_line :
    let tx : Transaction := { frame := [(31, 0x0F#8)], n := 63 }
    let tx' : Transaction := { frame := [(0, 0x00#8), (31, 0x0F#8)], n := 63 }
    tx.frame.wf = true ∧ tx.redriven = [] ∧ tx.line = tx'.line := by decide

end Sys2Proof.Tests
end

/-! ### Scope: which steps answer, and what the hand-over does (00_scope.md) -/

namespace Sys2Proof.Machine

/-- The operands change (R120) exactly when something driven later differs from what the ports first showed. -/
theorem held_eq_false_iff {s : State} : s.held = false ↔ ∃ x ∈ s.redriven, x ≠ s.operands := by
  simp [State.held]

/-- A presented transaction with held operands always has an outcome (R11): the step delivers it and hands over. -/
theorem step_delivers_of_held {s : State} (hv : s.inValid = true) (hh : s.held = true) :
    ∃ out : FrameOutcome, step s = .next (s.deliver out).advance := by
  cases hd : decode s.B s.rxLen with
  | error e => exact ⟨_, step_rejected hv hh hd⟩
  | ok i => exact ⟨_, step_decoded hv hh hd⟩

/-- The only refusal of a step: a transaction is presented and its operands are not held. -/
theorem step_refused_iff {s : State} :
    step s = .refused .operandsChanged ↔ s.inValid = true ∧ s.held = false := by
  constructor
  · intro h
    cases hv : s.inValid with
    | false => simp [step_idle hv] at h
    | true =>
      cases hh : s.held with
      | false => exact ⟨rfl, rfl⟩
      | true =>
        obtain ⟨out, hout⟩ := step_delivers_of_held hv hh
        simp [hout] at h
  · rintro ⟨hv, hh⟩
    exact step_changed hv hh

/-- A step that is not refused answers a next state, with one outcome more if a transaction was presented. -/
theorem step_answers_of_not_refused {s : State} (h : step s ≠ .refused .operandsChanged) :
    ∃ t : State, step s = .next t ∧
      t.delivered.length = s.delivered.length + (if s.inValid then 1 else 0) := by
  cases hv : s.inValid with
  | false => exact ⟨s.advance, step_idle hv, by simp⟩
  | true =>
    cases hh : s.held with
    | false => exact absurd (step_changed hv hh) h
    | true =>
      obtain ⟨out, hout⟩ := step_delivers_of_held hv hh
      exact ⟨_, hout, by simp⟩

/-- Settles O30: by the idle step, the changed operands, and the presented transaction with held operands. -/
theorem stepRefusesOnlyChangedOperands : Obligations.StepRefusesOnlyChangedOperands := by
  intro s
  exact ⟨by rw [step_refused_iff, held_eq_false_iff], step_answers_of_not_refused⟩

/-- Settles O25: the idle step is the hand-over, which keeps the outcomes. -/
theorem idleStepOnlyHandsOver : Obligations.IdleStepOnlyHandsOver := by
  intro s hv
  exact ⟨step_idle hv, advance_delivered s⟩

/-- Settles O26: by the hand-over's two cases, a further transaction in the reader's queue or none. -/
theorem handOverPresentsTheNextTransaction : Obligations.HandOverPresentsTheNextTransaction := by
  intro s
  refine ⟨advance_delivered s, advance_truncPolicy s, advance_draw s, ?_, ?_⟩
  · intro tx later hq
    simp [advance_cons hq]
  · intro hq
    simp [advance_nil hq, hq]

end Sys2Proof.Machine

/-! ### State: the invariant, the frame buffer, and the ports (10_state.md) -/

namespace Sys2Proof

/-- The decoder's two refusals, each with the length that causes it (R61). -/
theorem decode_error_cases {B : Frame} {n : Len} {e : DecodeError} (h : decode B n = .error e) :
    (e = .shortFrame ∧ n.toNat = 0) ∨ (e = .lengthOutOfRange n ∧ 33 ≤ n.toNat) := by
  rcases length_cases n with h0 | h33 | ⟨o, ho⟩
  · rw [decode_zero h0, Except.error.injEq] at h
    exact .inl ⟨h.symm, h0⟩
  · rw [decode_above h33, Except.error.injEq] at h
    exact .inr ⟨h.symm, h33⟩
  · simp [decode_at ho] at h

/-- What the decoder answers is well formed, and it answers for no length below 1. -/
theorem decode_ok_cases {B : Frame} {n : Len} {i : Instr} (h : decode B n = .ok i) :
    1 ≤ n.toNat ∧ i.wellFormed = true := by
  rcases length_cases n with h0 | h33 | ⟨o, ho⟩
  · simp [decode_zero h0] at h
  · simp [decode_above h33] at h
  · rw [decode_at ho, Except.ok.injEq] at h
    exact ⟨by omega, h ▸ classify_wellFormed _⟩

end Sys2Proof

namespace Sys2Proof.Machine

/-! The frame of an instruction, and what a step keeps. -/

/-- Settles O16: every instruction is the delivery of one outcome. -/
theorem execOnlyAppendsOneOutcome : Obligations.ExecOnlyAppendsOneOutcome := by
  intro i s t h
  rw [exec_eq, Host.Outcome.next.injEq] at h
  subst h
  exact ⟨fun _ => rfl, rfl, rfl, rfl, rfl, rfl, rfl, rfl, instrOutcome s i, rfl⟩

/-- Settles O33: a step hands over the state as it is, or with one outcome appended. -/
theorem stepKeepsPolicyAndHistory : Obligations.StepKeepsPolicyAndHistory := by
  intro s t h
  rcases step_cases h with ⟨-, rfl⟩ | ⟨-, -, e, -, rfl⟩ | ⟨-, -, i, -, rfl⟩
  · simp
  · simp
  · simp

/-! The invariant. -/

theorem Transaction.wf_iff {t : Transaction} :
    t.wf = true ↔ t.frame.wf = true ∧ ∀ x ∈ t.redriven, x.frame.wf = true := by
  simp [Transaction.wf]

theorem State.inv_iff {s : State} :
    s.inv = true ↔ s.frame.wf = true ∧ (∀ x ∈ s.redriven, x.frame.wf = true) ∧
      (∀ t ∈ s.queue, t.wf = true) ∧ ∀ out ∈ s.delivered, out.inRange s.truncPolicy = true := by
  simp [State.inv, and_assoc]

/-- Delivering an outcome that R21 allows keeps the invariant. -/
theorem inv_deliver {s : State} {out : FrameOutcome} (h : s.inv = true)
    (ho : out.inRange s.truncPolicy = true) : (s.deliver out).inv = true := by
  obtain ⟨hframe, hredriven, hqueue, hdelivered⟩ := State.inv_iff.1 h
  refine State.inv_iff.2 ⟨hframe, hredriven, hqueue, fun x hx => ?_⟩
  rcases List.mem_append.1 hx with hx | hx
  · exact hdelivered x hx
  · exact List.mem_singleton.1 hx ▸ ho

/-- The hand-over keeps the invariant: the buffers it presents come out of the queue. -/
theorem inv_advance {s : State} (h : s.inv = true) : s.advance.inv = true := by
  obtain ⟨hframe, hredriven, hqueue, hdelivered⟩ := State.inv_iff.1 h
  rcases hq : s.queue with _ | ⟨t, later⟩
  · rw [advance_nil hq]
    exact State.inv_iff.2 ⟨hframe, hredriven, hqueue, hdelivered⟩
  · rw [hq, List.forall_mem_cons] at hqueue
    obtain ⟨ht, hlater⟩ := hqueue
    obtain ⟨htframe, htredriven⟩ := Transaction.wf_iff.1 ht
    rw [advance_cons hq]
    exact State.inv_iff.2 ⟨htframe, htredriven, hlater, hdelivered⟩

/-- A length the decoder rejects gives an outcome that R21 allows. -/
theorem lengthOutcome_inRange {policy : TruncPolicy} {B : Frame} {n : Len} {e : DecodeError}
    (h : decode B n = .error e) : (lengthOutcome e).inRange policy = true := by
  rcases decode_error_cases h with ⟨rfl, -⟩ | ⟨rfl, h33⟩
  · rfl
  · simpa [lengthOutcome, FrameOutcome.inRange] using h33

/-- Within the contract, what an operation with a known tag delivers is in range if its record is: a truncated read has
a length from 1 to 31, under `FAULT`. -/
theorem truncated_or_inRange {policy : TruncPolicy} {n : Len} {tag : Byte} {record : FrameOutcome}
    (h1 : 1 ≤ n.toNat) (hk : isKnownTag tag = true) (hr : record.inRange policy = true) :
    (if truncates policy n then .truncatedPayload n tag else record : FrameOutcome).inRange policy = true := by
  split
  · next ht =>
    obtain ⟨hfault, hshort⟩ := truncates_iff.1 ht
    simp [FrameOutcome.inRange, hfault, hk, h1, Nat.le_of_lt_succ hshort]
  · exact hr

/-- A decoded instruction delivers an outcome that R21 allows. -/
theorem instrOutcome_inRange {s : State} {i : Instr} (h : decode s.B s.rxLen = .ok i) :
    (instrOutcome s i).inRange s.truncPolicy = true := by
  obtain ⟨hlower, hwf⟩ := decode_ok_cases h
  cases i with
  | env => exact truncated_or_inRange hlower rfl rfl
  | bal => exact truncated_or_inRange hlower rfl rfl
  | sys => exact truncated_or_inRange hlower rfl rfl
  | unk tag => exact hwf

/-- Settles O34: a step is a delivery of an outcome in range, or nothing, and then the hand-over; both keep the
invariant. -/
theorem stepKeepsTheInvariant : Obligations.StepKeepsTheInvariant := by
  intro s t hinv h
  rcases step_cases h with ⟨-, rfl⟩ | ⟨-, -, e, hd, rfl⟩ | ⟨-, -, i, hd, rfl⟩
  · exact inv_advance hinv
  · exact inv_advance (inv_deliver hinv (lengthOutcome_inRange hd))
  · exact inv_advance (inv_deliver hinv (instrOutcome_inRange hd))

/-- Settles O35: reset's buffer is canonical, and its lists are empty. -/
theorem resetMeetsTheInvariant : Obligations.ResetMeetsTheInvariant :=
  State.inv_iff.2 ⟨reset_frame_wf, nofun, nofun, nofun⟩

/-! The frame buffer: each frame has one canonical list. -/

/-- The entry at the head of a list is what its offset reads as. -/
theorem Memory.read_head {a : Nat} {b : Byte} {rest : Memory} (ha : a < 32) :
    Memory.read ((a, b) :: rest) ⟨a, ha⟩ = b := by
  simp [Memory.read]

/-- Elsewhere than at its head's offset, a list reads as its tail does. -/
theorem Memory.read_tail {a : Nat} {b : Byte} {rest : Memory} {o : Fin 32} (h : a ≠ o.val) :
    Memory.read ((a, b) :: rest) o = Memory.read rest o := by
  simp [Memory.read, h]

/-- If a canonical list reads as one with a head entry does, then it does not start above that head. -/
theorem Memory.not_wfFrom_above_head {m : Memory} {low a : Nat} {b : Byte} {rest : Memory} (ha : a < 32)
    (hb : b ≠ Memory.unlisted) (hread : ∀ o, Memory.read ((a, b) :: rest) o = m.read o) (hlow : a < low) :
    ¬ Memory.wfFrom low m = true := by
  intro hm
  have hunlisted : m.read ⟨a, ha⟩ = Memory.unlisted := Memory.read_below hm hlow
  rw [← hread, Memory.read_head] at hunlisted
  exact hb hunlisted

/-- Two canonical lists that read alike at every offset are the same list. -/
theorem Memory.eq_of_read_eq {m m' : Memory} {low : Nat} (h : Memory.wfFrom low m = true)
    (h' : Memory.wfFrom low m' = true) (hread : ∀ o, m.read o = m'.read o) : m = m' := by
  induction m generalizing m' low with
  | nil =>
    rcases m' with _ | ⟨⟨a', b'⟩, rest'⟩
    · rfl
    · obtain ⟨-, ha', hb', -⟩ := Memory.wfFrom_cons.1 h'
      exact absurd rfl (Memory.not_wfFrom_above_head ha' hb' (fun o => (hread o).symm) (Nat.lt_succ_self a'))
  | cons e rest ih =>
    obtain ⟨a, b⟩ := e
    obtain ⟨-, ha, hb, hrest⟩ := Memory.wfFrom_cons.1 h
    rcases m' with _ | ⟨⟨a', b'⟩, rest'⟩
    · exact absurd rfl (Memory.not_wfFrom_above_head ha hb hread (Nat.lt_succ_self a))
    · obtain ⟨-, ha', hb', hrest'⟩ := Memory.wfFrom_cons.1 h'
      have hle : a' ≤ a := by
        by_contra hlt
        exact Memory.not_wfFrom_above_head ha hb hread (Nat.lt_of_not_le hlt)
          (Memory.wfFrom_cons.2 ⟨le_rfl, ha', hb', hrest'⟩)
      have hge : a ≤ a' := by
        by_contra hlt
        exact Memory.not_wfFrom_above_head ha' hb' (fun o => (hread o).symm) (Nat.lt_of_not_le hlt)
          (Memory.wfFrom_cons.2 ⟨le_rfl, ha, hb, hrest⟩)
      obtain rfl : a = a' := le_antisymm hge hle
      have hhead : b = b' := by simpa only [Memory.read_head] using hread ⟨a, ha⟩
      have htail : rest = rest' := ih hrest hrest' fun o => by
        by_cases ho : a = o.val
        · rw [Memory.read_below hrest (by omega), Memory.read_below hrest' (by omega)]
        · simpa only [Memory.read_tail ho] using hread o
      rw [hhead, htail]

/-- The canonical buffer of a frame: its bytes written one after the other. -/
def Memory.ofFrame (B : Frame) : Memory := (List.finRange 32).foldl (fun m o => m.write o (B o)) []

/-- Writing a frame's bytes at some offsets keeps the canonical form, and puts exactly those bytes there. -/
theorem Memory.foldl_write_frame (B : Frame) (os : List (Fin 32)) {m : Memory} (h : m.wf = true) :
    (os.foldl (fun m o => m.write o (B o)) m).wf = true ∧
    ∀ o, Memory.read (os.foldl (fun m o => m.write o (B o)) m) o = if o ∈ os then B o else m.read o := by
  induction os generalizing m with
  | nil => exact ⟨h, fun o => by simp⟩
  | cons p rest ih =>
    obtain ⟨hwf, hread⟩ := ih (Memory.wf_write h p (B p))
    refine ⟨hwf, fun o => ?_⟩
    rw [List.foldl_cons, hread, Memory.read_write h]
    by_cases hp : o = p
    · simp [hp]
    · simp [hp]

theorem Memory.wf_ofFrame (B : Frame) : (Memory.ofFrame B).wf = true :=
  (Memory.foldl_write_frame B _ Memory.wf_nil).1

@[simp] theorem Memory.view_ofFrame (B : Frame) : (Memory.ofFrame B).view = B := by
  funext o
  rw [view_apply, Memory.ofFrame, (Memory.foldl_write_frame B _ Memory.wf_nil).2, if_pos (List.mem_finRange o)]

/-- Settles O42: writing the bytes gives a canonical buffer, and a canonical buffer is fixed by what it reads as. -/
theorem everyFrameHasExactlyOneBuffer : Obligations.EveryFrameHasExactlyOneBuffer := by
  intro B
  refine ⟨Memory.ofFrame B, Memory.wf_ofFrame B, Memory.view_ofFrame B, fun m' hwf hview => ?_⟩
  refine Memory.eq_of_read_eq hwf (Memory.wf_ofFrame B) fun o => ?_
  rw [← view_apply, ← view_apply, hview, Memory.view_ofFrame]

end Sys2Proof.Machine

namespace Sys2Proof.Machine

/-! ### DECODE at a tag, and the ports (10_state.md R30, 40_dispatch.md R65) -/

/-- What DECODE can yield where the tag lies in the frame (R65 lines 4 to 7), each outcome with its cause. -/
theorem decodeTransaction_cases_at (policy : TruncPolicy) (B : Frame) {n : Len} {o : Fin 32}
    (ho : o.val + 1 = n.toNat) :
    (isKnownTag (B o) = false ∧ decodeTransaction policy B n = .unrecognizedTag (B o)) ∨
    (isKnownTag (B o) = true ∧ truncates policy n = true ∧
      decodeTransaction policy B n = .truncatedPayload n (B o)) ∨
    (B o = Config.tagEnv ∧ truncates policy n = false ∧ decodeTransaction policy B n = envRecord B (tick B)) ∨
    (B o = Config.tagBal ∧ truncates policy n = false ∧ decodeTransaction policy B n = balRecord B (tick B)) ∨
    (B o = Config.tagSys ∧ truncates policy n = false ∧ decodeTransaction policy B n = sysRecord B (tick B)) := by
  simp only [decodeTransaction_at ho, ← isKnownTag_eq_false, ← truncates_iff]
  cases hk : isKnownTag (B o) with
  | false => exact .inl ⟨rfl, rfl⟩
  | true =>
    cases ht : truncates policy n with
    | true => exact .inr (.inl ⟨rfl, rfl, rfl⟩)
    | false =>
      rcases isKnownTag_iff.1 hk with h | h | h
      · exact .inr (.inr (.inl ⟨h, rfl, by rw [h]; rfl⟩))
      · exact .inr (.inr (.inr (.inl ⟨h, rfl, by rw [h]; rfl⟩)))
      · exact .inr (.inr (.inr (.inr ⟨h, rfl, by rw [h]; rfl⟩)))

/-- `tag_raw` is the byte at `n - 1`. -/
theorem tagRaw?_at {B : Frame} {n : Len} {o : Fin 32} (ho : o.val + 1 = n.toNat) : tagRaw? B n = some (B o) := by
  have := o.isLt
  rw [tagRaw?, dif_pos (by omega), tagsel_eq ho]

/-- What an outcome carries besides its record stands on the ports: the length on `rx_len`, the tag on `tag_raw`. -/
def FrameOutcome.carries (B : Frame) (n : Len) : FrameOutcome → Prop
  | .env _ _ => True
  | .bal _ _ => True
  | .sys _ _ => True
  | .unrecognizedTag tag => tagRaw? B n = some tag
  | .shortFrame => True
  | .lengthOutOfRange m => m = n
  | .truncatedPayload m tag => m = n ∧ tagRaw? B n = some tag

/-- DECODE's outcome carries only its own length and its own tag. -/
theorem decodeTransaction_carries (policy : TruncPolicy) (B : Frame) (n : Len) :
    (decodeTransaction policy B n).carries B n := by
  rcases length_cases n with h0 | h33 | ⟨o, ho⟩
  · rw [decodeTransaction_zero h0]
    trivial
  · rw [decodeTransaction_above h33]
    rfl
  · rcases decodeTransaction_cases_at policy B ho with
      ⟨-, h⟩ | ⟨-, -, h⟩ | ⟨-, -, h⟩ | ⟨-, -, h⟩ | ⟨-, -, h⟩ <;> rw [h]
    · exact tagRaw?_at ho
    · exact ⟨rfl, tagRaw?_at ho⟩
    · trivial
    · trivial
    · trivial

/-- While a held transaction is presented, the ports show DECODE's outcome. -/
theorem shown_of_held {s : State} (hv : s.inValid = true) (hh : s.held = true) :
    s.shown = some (decodeTransaction s.truncPolicy s.B s.rxLen) := by
  simp [State.shown, hv, hh]

/-- The `kind` port is the code of the outcome shown. -/
theorem outPorts_kind {s : State} {out : FrameOutcome} (h : s.shown = some out) : s.outPorts.kind = out.kind := by
  simp [State.outPorts, h]

/-- A sink reads back from the ports the outcome they show. -/
theorem observe_of_shown {s : State} {out : FrameOutcome} (hv : s.inValid = true) (h : s.shown = some out)
    (hc : out.carries s.B s.rxLen) : s.outPorts.observe s.rxLen = some out := by
  cases out with
  | env r t =>
    have hstale : (BitVec.ofBool r.isStale == 1#1) = r.isStale := by cases r.isStale <;> rfl
    simp [OutPorts.observe, State.outPorts, h, hv, FrameOutcome.kind, FrameOutcome.env?, FrameOutcome.tick?, hstale]
  | bal r t =>
    simp [OutPorts.observe, State.outPorts, h, hv, FrameOutcome.kind, FrameOutcome.bal?, FrameOutcome.tick?]
  | sys r t =>
    simp [OutPorts.observe, State.outPorts, h, hv, FrameOutcome.kind, FrameOutcome.sys?, FrameOutcome.tick?]
  | unrecognizedTag tag =>
    simp only [FrameOutcome.carries] at hc
    simp [OutPorts.observe, State.outPorts, h, hv, FrameOutcome.kind, hc]
  | shortFrame =>
    simp [OutPorts.observe, State.outPorts, h, hv, FrameOutcome.kind]
  | lengthOutOfRange m =>
    simp only [FrameOutcome.carries] at hc
    simp [OutPorts.observe, State.outPorts, h, hv, FrameOutcome.kind, hc]
  | truncatedPayload m tag =>
    obtain ⟨hm, htag⟩ := hc
    simp [OutPorts.observe, State.outPorts, h, hv, FrameOutcome.kind, hm, htag]

/-- Settles O39: DECODE's outcome carries nothing but what its ports show, so the sink reads it back whole. -/
theorem portsCarryTheOutcome : Obligations.PortsCarryTheOutcome := by
  intro s hh
  cases hv : s.inValid with
  | false => simp [OutPorts.observe, State.outPorts, hv]
  | true =>
    rw [if_pos rfl]
    exact observe_of_shown hv (shown_of_held hv hh) (decodeTransaction_carries _ _ _)

/-- Within the contract, a read is not truncated exactly when the policy preserves or the frame is full. -/
theorem truncates_eq_false_iff {policy : TruncPolicy} {n : Len} (h : n.toNat ≤ 32) :
    truncates policy n = false ↔ policy = .preserve ∨ n.toNat = 32 := by
  cases policy with
  | preserve => simp
  | fault =>
    simp only [truncates_fault, decide_eq_false_iff_not, reduceCtorEq, false_or]
    omega

/-- Seven codes are in use; 7 is not one of them. -/
theorem kind_ne_seven (out : FrameOutcome) : out.kind ≠ 7#3 := by
  cases out <;> simp [FrameOutcome.kind]

/-- The two lengths that locate no tag are exactly the causes of the codes 4 and 5. -/
theorem kind_of_length (policy : TruncPolicy) (B : Frame) (n : Len) :
    ((decodeTransaction policy B n).kind = 4#3 ↔ n.toNat = 0) ∧
    ((decodeTransaction policy B n).kind = 5#3 ↔ 33 ≤ n.toNat) := by
  rcases length_cases n with h0 | h33 | ⟨o, ho⟩
  · simp [decodeTransaction_zero h0, FrameOutcome.kind, h0]
  · have hpos : n.toNat ≠ 0 := by omega
    simp [decodeTransaction_above h33, FrameOutcome.kind, h33, hpos]
  · have hpos : n.toNat ≠ 0 := by omega
    have hlen : ¬ 33 ≤ n.toNat := by omega
    rcases decodeTransaction_cases_at policy B ho with
      ⟨-, h⟩ | ⟨-, -, h⟩ | ⟨-, -, h⟩ | ⟨-, -, h⟩ | ⟨-, -, h⟩ <;>
      simp [h, envRecord, balRecord, sysRecord, FrameOutcome.kind, hpos, hlen]

/-- Where the tag lies in the frame, the codes 0, 1, 2, 3 and 6 by the tag and by whether the policy truncates. -/
theorem kind_of_tag {policy : TruncPolicy} {B : Frame} {n : Len} {o : Fin 32} (ho : o.val + 1 = n.toNat) :
    ((decodeTransaction policy B n).kind = 0#3 ↔ B o = Config.tagEnv ∧ truncates policy n = false) ∧
    ((decodeTransaction policy B n).kind = 1#3 ↔ B o = Config.tagBal ∧ truncates policy n = false) ∧
    ((decodeTransaction policy B n).kind = 2#3 ↔ B o = Config.tagSys ∧ truncates policy n = false) ∧
    ((decodeTransaction policy B n).kind = 3#3 ↔ isKnownTag (B o) = false) ∧
    ((decodeTransaction policy B n).kind = 6#3 ↔ truncates policy n = true ∧ isKnownTag (B o) = true) := by
  rcases decodeTransaction_cases_at policy B ho with
    ⟨hk, h⟩ | ⟨hk, ht, h⟩ | ⟨htag, ht, h⟩ | ⟨htag, ht, h⟩ | ⟨htag, ht, h⟩ <;> rw [h]
  · obtain ⟨henv, hbal, hsys⟩ := isKnownTag_eq_false.1 hk
    simp [FrameOutcome.kind, hk, henv, hbal, hsys]
  · simp [FrameOutcome.kind, hk, ht]
  · simp [envRecord, FrameOutcome.kind, htag, ht, isKnownTag, knownTags, Config.tagEnv, Config.tagBal, Config.tagSys]
  · simp [balRecord, FrameOutcome.kind, htag, ht, isKnownTag, knownTags, Config.tagEnv, Config.tagBal, Config.tagSys]
  · simp [sysRecord, FrameOutcome.kind, htag, ht, isKnownTag, knownTags, Config.tagEnv, Config.tagBal, Config.tagSys]

/-- Settles O40: the codes of the lengths, then those of the tag, of the outcome the ports show. -/
theorem kindAndTagPorts : Obligations.KindAndTagPorts := by
  intro s
  refine ⟨by cases hv : s.inValid <;> simp [State.outPorts, hv], fun hv hh => ?_⟩
  have hshown := shown_of_held hv hh
  obtain ⟨hzero, habove⟩ := kind_of_length s.truncPolicy s.B s.rxLen
  rw [outPorts_kind hshown]
  refine ⟨kind_ne_seven _, hzero, habove, fun o ho => ⟨by simp [State.outPorts, hshown, tagRaw?_at ho], ?_⟩⟩
  obtain ⟨henv, hbal, hsys, hunknown, htruncated⟩ := kind_of_tag (policy := s.truncPolicy) (B := s.B) ho
  have hfull := truncates_eq_false_iff (policy := s.truncPolicy) (n := s.rxLen) (by omega)
  rw [hfull] at henv hbal hsys
  rw [isKnownTag_eq_false] at hunknown
  rw [truncates_iff, isKnownTag_iff, and_assoc] at htruncated
  exact ⟨henv, hbal, hsys, hunknown, htruncated⟩

/-! The frame port. -/

/-- Packed bytes fit in eight bits each. -/
theorem packLE_lt (bytes : List Byte) : packLE bytes < 256 ^ bytes.length := by
  induction bytes with
  | nil => simp [packLE]
  | cons b rest ih =>
    have := b.isLt
    rw [packLE, List.length_cons, pow_succ]
    omega

/-- The base-256 digits of the packed number are the bytes: a division by 256 drops the lowest. -/
theorem packLE_digit (bytes : List Byte) (k : Nat) (h : k < bytes.length) :
    packLE bytes / 256 ^ k % 256 = (bytes[k]).toNat := by
  induction bytes generalizing k with
  | nil => simp at h
  | cons b rest ih =>
    have := b.isLt
    cases k with
    | zero =>
      rw [pow_zero, Nat.div_one, packLE, List.getElem_cons_zero]
      omega
    | succ k =>
      have hdrop : packLE (b :: rest) / 256 = packLE rest := by rw [packLE]; omega
      rw [pow_succ', ← Nat.div_div_eq_div_mul, hdrop]
      exact ih k (by simpa using h)

/-- The port's 256 bits hold the packed bytes whole. -/
theorem framePort_toNat (B : Frame) : (framePort B).toNat = packLE (Frame.bytes B) := by
  have hlt := packLE_lt (Frame.bytes B)
  have hlen : (Frame.bytes B).length = 32 := by simp [Frame.bytes]
  rw [hlen] at hlt
  exact Nat.mod_eq_of_lt hlt

/-- Byte `i` of the port (R30). -/
theorem framePort_byte (B : Frame) (i : Fin 32) : (framePort B).extractLsb' (8 * i.val) 8 = B i := by
  apply BitVec.eq_of_toNat_eq
  rw [BitVec.extractLsb'_toNat, framePort_toNat, Nat.shiftRight_eq_div_pow, pow_mul]
  exact (packLE_digit _ i.val (by simp [Frame.bytes])).trans (by simp [Frame.bytes])

/-- Four slices of eight bits in a row are one slice of 32, so LE32 is a slice of the port (D2). -/
theorem framePort_le32 (B : Frame) (o : Fin 29) : (framePort B).extractLsb' (8 * o.val) 32 = le32 B o := by
  unfold le32
  simp only [← framePort_byte]
  rw [BitVec.extractLsb'_append_extractLsb'_eq_extractLsb' (Nat.mul_succ 8 (o.val + 2)),
    BitVec.extractLsb'_append_extractLsb'_eq_extractLsb' (Nat.mul_succ 8 (o.val + 1)),
    BitVec.extractLsb'_append_extractLsb'_eq_extractLsb' (Nat.mul_succ 8 o.val)]

/-- Settles O41: each byte is a base-256 digit of the port, and four digits in a row are one slice. -/
theorem framePortPacksTheBytes : Obligations.FramePortPacksTheBytes :=
  fun B => ⟨framePort_byte B, framePort_le32 B⟩

end Sys2Proof.Machine

/-! ### Encoding: the tag byte (30_encoding.md) -/

namespace Sys2Proof

/-- Classifying the encoding of a well-formed instruction gives it back. -/
theorem classify_encode {i : Instr} (h : i.wellFormed = true) : classify (encode i) = i := by
  cases i with
  | env => exact Laws.TagRoundTrip.env h
  | bal => exact Laws.TagRoundTrip.bal h
  | sys => exact Laws.TagRoundTrip.sys h
  | unk tag => exact Laws.TagRoundTrip.unk tag h

/-- A tag selects exactly the well-formed instruction it encodes. -/
theorem classify_eq_iff {tag : Byte} {i : Instr} :
    classify tag = i ↔ i.wellFormed = true ∧ tag = encode i := by
  constructor
  · rintro rfl
    exact ⟨classify_wellFormed tag, (encode_classify tag).symm⟩
  · rintro ⟨hwf, rfl⟩
    exact classify_encode hwf

/-- The decoder answers exactly where the tag lies in the frame, with what that tag selects. -/
theorem decode_eq_ok_iff {B : Frame} {n : Len} {i : Instr} :
    decode B n = .ok i ↔ ∃ o : Fin 32, o.val + 1 = n.toNat ∧ classify (B o) = i := by
  constructor
  · intro h
    rcases length_cases n with h0 | h33 | ⟨o, ho⟩
    · simp [decode_zero h0] at h
    · simp [decode_above h33] at h
    · exact ⟨o, ho, by simpa [decode_at ho] using h⟩
  · rintro ⟨o, ho, rfl⟩
    exact decode_at ho

/-- Settles O5: the decoder answers what the tag at `n - 1` selects, and a tag selects the well-formed instruction it
encodes. -/
theorem decodeAnswersExactlyTheEncodedInstruction : Obligations.DecodeAnswersExactlyTheEncodedInstruction := by
  intro B n i
  calc decode B n = .ok i
      ↔ ∃ o : Fin 32, o.val + 1 = n.toNat ∧ i.wellFormed = true ∧ B o = encode i := by
        simp only [decode_eq_ok_iff, classify_eq_iff]
    _ ↔ i.wellFormed = true ∧ ∃ o : Fin 32, o.val + 1 = n.toNat ∧ B o = encode i := by
        rw [← exists_and_left]
        exact exists_congr fun o => and_left_comm

/-- Settles O6: each refusal has one cause, and each bad length is refused by its own name. -/
theorem decodeRefusesExactlyTheBadLengths : Obligations.DecodeRefusesExactlyTheBadLengths := by
  intro B n
  refine ⟨⟨fun h => ?_, decode_zero⟩, fun m => ⟨fun h => ?_, ?_⟩⟩
  · rcases decode_error_cases h with ⟨-, h0⟩ | ⟨hname, -⟩
    · exact h0
    · exact nomatch hname
  · rcases decode_error_cases h with ⟨hname, -⟩ | ⟨hname, h33⟩
    · exact nomatch hname
    · exact ⟨DecodeError.lengthOutOfRange.inj hname, h33⟩
  · rintro ⟨rfl, h33⟩
    exact decode_above h33

/-! Tags written out, and the opcode table. -/

/-- The full frame of a table word decodes to what its tag selects. -/
theorem decode_tableFrame (tag : Byte) : decode (tableFrame tag) 32#6 = .ok (classify tag) :=
  decode_at (o := 31) rfl

/-- Settles O1: the decoder classifies the byte at offset 31, and that is a comparison of constants. -/
theorem writtenOutTagsDecode : Obligations.WrittenOutTagsDecode := by
  simp only [Obligations.WrittenOutTagsDecode, decode_tableFrame]
  decide

/-- A tag selects UNK exactly when it lies in one of the two ranges of R51. -/
theorem classify_eq_unk_iff_range {tag : Byte} :
    classify tag = .unk tag ↔ (2 ≤ tag.toNat ∧ tag.toNat ≤ 14) ∨ (16 ≤ tag.toNat ∧ tag.toNat ≤ 255) := by
  have hunknown : classify tag = .unk tag ↔ tag ≠ 0x00#8 ∧ tag ≠ 0x01#8 ∧ tag ≠ 0x0F#8 := by
    simp [classify_eq_iff, encode, Instr.wellFormed, isKnownTag_eq_false, Config.tagEnv, Config.tagBal, Config.tagSys]
  have := tag.isLt
  rw [hunknown]
  simp only [ne_eq, BitVec.toNat_eq, BitVec.toNat_ofNat]
  omega

/-- Settles O3: 13 of the 16 tags below 0x10 are unknown, and so are all 240 from there on. -/
theorem unknownTagsAre253InTwoRanges : Obligations.UnknownTagsAre253InTwoRanges := by
  refine ⟨?_, fun tag => classify_eq_unk_iff_range⟩
  have hupper : (List.range' 16 240).countP
      (fun v => classify (BitVec.ofNat 8 v) == .unk (BitVec.ofNat 8 v)) = (List.range' 16 240).length := by
    refine List.countP_eq_length.2 fun v hv => beq_iff_eq.2 (classify_eq_unk_iff_range.2 (.inr ?_))
    obtain ⟨hlow, hhigh⟩ := List.mem_range'_1.1 hv
    rw [BitVec.toNat_ofNat]
    omega
  have hsplit : List.range 256 = List.range 16 ++ List.range' 16 240 := by
    rw [List.range_eq_range', List.range_eq_range', List.range'_append_1]
  rw [hsplit, List.countP_append, hupper, List.length_range']
  decide

/-- A row with the full mask matches its own pattern only. -/
theorem accepts_fullMask (mnemonic : String) (pattern tag : Byte) :
    OpcodeRow.accepts { mnemonic := mnemonic, pattern := pattern, mask := 0xFF#8 } tag = (tag == pattern) := by
  have hmask : tag &&& 0xFF#8 = tag := BitVec.and_allOnes
  simp [OpcodeRow.accepts, hmask]

/-- A row with the empty mask and the pattern 0 matches every tag. -/
theorem accepts_emptyMask (mnemonic : String) (tag : Byte) :
    OpcodeRow.accepts { mnemonic := mnemonic, pattern := 0x00#8, mask := 0x00#8 } tag = true := by
  simp [OpcodeRow.accepts]

/-- Settles O4: the three rows with a known tag match that tag alone, and the last row matches what they leave. -/
theorem opcodeTableSelectsWhatTheDecoderSelects : Obligations.OpcodeTableSelectsWhatTheDecoderSelects := by
  intro tag
  cases hk : isKnownTag tag with
  | true =>
    rcases isKnownTag_iff.1 hk with rfl | rfl | rfl
    · decide
    · decide
    · decide
  | false =>
    obtain ⟨henv, hbal, hsys⟩ := isKnownTag_eq_false.1 hk
    have hunk : classify tag = .unk tag := by simp [classify, henv, hbal, hsys]
    simp only [Config.tagEnv, Config.tagBal, Config.tagSys] at henv hbal hsys
    simp [opcodeRows, accepts_fullMask, accepts_emptyMask, hunk, Instr.mnemonic, henv, hbal, hsys]

end Sys2Proof

/-! ### Encoding: the bytes that an outcome reads (30_encoding.md R57, R59) -/

namespace Sys2Proof.Machine

/-- What the selected operation yields from a frame when nothing is truncated (R65 lines 4, 6 and 7). -/
def instrRecord (B : Frame) : Instr → FrameOutcome
  | .env => envRecord B (tick B)
  | .bal => balRecord B (tick B)
  | .sys => sysRecord B (tick B)
  | .unk tag => .unrecognizedTag tag

/-- Where the tag lies in the frame, DECODE truncates a known tag or yields what the selected operation does. -/
theorem decodeTransaction_eq_instrRecord {policy : TruncPolicy} {B : Frame} {n : Len} {o : Fin 32}
    (ho : o.val + 1 = n.toNat) :
    decodeTransaction policy B n =
      if isKnownTag (B o) = true ∧ truncates policy n = true then .truncatedPayload n (B o)
      else instrRecord B (classify (B o)) := by
  rcases decodeTransaction_cases_at policy B ho with
    ⟨hk, h⟩ | ⟨hk, ht, h⟩ | ⟨htag, ht, h⟩ | ⟨htag, ht, h⟩ | ⟨htag, ht, h⟩ <;> rw [h]
  · obtain ⟨henv, hbal, hsys⟩ := isKnownTag_eq_false.1 hk
    simp [hk, classify, henv, hbal, hsys, instrRecord]
  · rw [if_pos ⟨hk, ht⟩]
  · simp [ht, htag, show classify Config.tagEnv = .env from rfl, instrRecord]
  · simp [ht, htag, show classify Config.tagBal = .bal from rfl, instrRecord]
  · simp [ht, htag, show classify Config.tagSys = .sys from rfl, instrRecord]

/-- LE32 reads four bytes and no other. -/
theorem le32_congr {B B' : Frame} {o : Fin 29}
    (h : ∀ k : Fin 32, o.val ≤ k.val → k.val ≤ o.val + 3 → B k = B' k) : le32 B o = le32 B' o := by
  unfold le32
  rw [h ⟨o.val, by omega⟩ (by simp) (by simp), h ⟨o.val + 1, by omega⟩ (by simp) (by simp),
    h ⟨o.val + 2, by omega⟩ (by simp) (by simp), h ⟨o.val + 3, by omega⟩ (by simp) (by simp)]

/-- Where the field bytes of an operation include the tick counter's, they fix it. -/
theorem tick_congr {B B' : Frame} {i : Instr} (h : ∀ k : Fin 32, k.val ∈ fieldOffsets i → B k = B' k)
    (hi : ∀ j ∈ [27, 28, 29, 30], j ∈ fieldOffsets i) : tick B = tick B' :=
  le32_congr fun k (hlow : 27 ≤ k.val) (hhigh : k.val ≤ 30) => h k (hi k (by simp only [List.mem_cons]; omega))

/-- An operation reads its own field bytes and no other (R23, R57). -/
theorem instrRecord_congr {B B' : Frame} {i : Instr}
    (h : ∀ k : Fin 32, k.val ∈ fieldOffsets i → B k = B' k) : instrRecord B i = instrRecord B' i := by
  cases i with
  | env =>
    have htick : tick B = tick B' := tick_congr h (by decide)
    simp [instrRecord, envRecord, u8, stale, temperatureOffset, humidityOffset, staleOffset, htick,
      h 0 (by decide), h 1 (by decide), h 2 (by decide)]
  | bal =>
    have htick : tick B = tick B' := tick_congr h (by decide)
    simp [instrRecord, balRecord, u8, currentStateOffset, targetStateOffset, htick, h 0 (by decide), h 1 (by decide)]
  | sys =>
    have htick : tick B = tick B' := tick_congr h (by decide)
    have hfield : ∀ o : Fin 29, o.val ≤ 8 → le32 B o = le32 B' o := fun o ho =>
      le32_congr fun k hlow hhigh => h k (by simp only [fieldOffsets, List.mem_cons]; omega)
    simp [instrRecord, sysRecord, htick, hfield, tickDeltaOffset, tickIdleTimeOffset, totalTickTimeOffset]
  | unk tag => rfl

/-- Settles O20: DECODE reads the tag and then the selected operation's field bytes, and the length only where the
policy truncates. -/
theorem onlyTagAndFieldBytesInfluenceTheOutcome : Obligations.OnlyTagAndFieldBytesInfluenceTheOutcome := by
  intro policy B B' n n' o o' ho ho' htag hlen hfields
  rw [decodeTransaction_eq_instrRecord ho, decodeTransaction_eq_instrRecord ho', ← htag, instrRecord_congr hfields]
  rcases hlen with rfl | rfl
  · simp
  · rfl

/-! A tag that is also a field byte. -/

/-- A slice of a slice is a slice. -/
theorem extractLsb'_of_extractLsb' {w : Nat} (x : BitVec w) (start start' len len' : Nat) (h : start' + len' ≤ len) :
    (x.extractLsb' start len).extractLsb' start' len' = x.extractLsb' (start + start') len' := by
  ext i hi
  simp [show start' + i < len by omega, Nat.add_assoc]

/-- Byte `j` of LE32 is the frame's byte at `o + j`. -/
theorem le32_byte (B : Frame) (o : Fin 29) {k : Fin 32} {j : Nat} (hj : j < 4) (hk : k.val = o.val + j) :
    (le32 B o).extractLsb' (8 * j) 8 = B k := by
  rw [← framePort_le32, extractLsb'_of_extractLsb' _ _ _ _ _ (by omega), ← Nat.mul_add, ← hk, framePort_byte]

/-- The byte at `n - 1` is the tag, whatever field it belongs to. -/
theorem byte_eq_tag {B : Frame} {n : Len} {o k : Fin 32} (ho : o.val + 1 = n.toNat) (hk : k.val + 1 = n.toNat) :
    B k = B o :=
  congrArg B (Fin.ext (by omega))

/-- Where the frame ends inside a four-byte field, the tag is one of the field's bytes (R59). -/
theorem le32_byte_tag {B : Frame} {n : Len} {o : Fin 32} (ho : o.val + 1 = n.toNat) (field : Fin 29)
    (hlow : field.val + 1 ≤ n.toNat) (hhigh : n.toNat ≤ field.val + 4) :
    (le32 B field).extractLsb' (8 * (n.toNat - (field.val + 1))) 8 = B o :=
  le32_byte B field (by omega) (by omega)

/-- R87: an Environment frame's tag 0x00 as one of its own field bytes. -/
theorem envRecord_tag_overlap {B : Frame} {n : Len} {o : Fin 32} (ho : o.val + 1 = n.toNat) (htag : B o = 0x00#8)
    {r : EnvironmentTelemetry} {t : U32} (h : envRecord B (tick B) = .env r t) :
    (n.toNat = 1 → r.internalTemperatureC = 0#8) ∧ (n.toNat = 2 → r.internalHumidityPercent = 0#8) ∧
    (n.toNat = 3 → r.isStale = true) ∧
    (28 ≤ n.toNat → n.toNat ≤ 31 → t.extractLsb' (8 * (n.toNat - 28)) 8 = 0x00#8) := by
  obtain ⟨rfl, rfl⟩ := FrameOutcome.env.inj h
  refine ⟨fun hn => ?_, fun hn => ?_, fun hn => ?_, fun hlow hhigh => ?_⟩
  · exact (byte_eq_tag ho (k := 0) hn.symm).trans htag
  · exact (byte_eq_tag ho (k := 1) hn.symm).trans htag
  · have hbyte : B 2 = 0x00#8 := (byte_eq_tag ho (k := 2) hn.symm).trans htag
    simp [stale, staleOffset, hbyte]
  · exact (le32_byte_tag ho tickOffset hlow hhigh).trans htag

/-- R91: a Ballast frame's tag 0x01 as one of its own field bytes. -/
theorem balRecord_tag_overlap {B : Frame} {n : Len} {o : Fin 32} (ho : o.val + 1 = n.toNat) (htag : B o = 0x01#8)
    {r : BallastTelemetry} {t : U32} (h : balRecord B (tick B) = .bal r t) :
    (n.toNat = 1 → r.currentState = 1#8) ∧ (n.toNat = 2 → r.targetState = 1#8) ∧
    (28 ≤ n.toNat → n.toNat ≤ 31 → t.extractLsb' (8 * (n.toNat - 28)) 8 = 0x01#8) := by
  obtain ⟨rfl, rfl⟩ := FrameOutcome.bal.inj h
  refine ⟨fun hn => ?_, fun hn => ?_, fun hlow hhigh => ?_⟩
  · exact (byte_eq_tag ho (k := 0) hn.symm).trans htag
  · exact (byte_eq_tag ho (k := 1) hn.symm).trans htag
  · exact (le32_byte_tag ho tickOffset hlow hhigh).trans htag

/-- R96: a System frame's tag 0x0F as one of its own field bytes. -/
theorem sysRecord_tag_overlap {B : Frame} {n : Len} {o : Fin 32} (ho : o.val + 1 = n.toNat) (htag : B o = 0x0F#8)
    {r : SystemTelemetry} {t : U32} (h : sysRecord B (tick B) = .sys r t) :
    (n.toNat ≤ 4 → r.tickDelta.extractLsb' (8 * (n.toNat - 1)) 8 = 0x0F#8) ∧
    (5 ≤ n.toNat → n.toNat ≤ 8 → r.tickIdleTime.extractLsb' (8 * (n.toNat - 5)) 8 = 0x0F#8) ∧
    (9 ≤ n.toNat → n.toNat ≤ 12 → r.totalTickTime.extractLsb' (8 * (n.toNat - 9)) 8 = 0x0F#8) ∧
    (28 ≤ n.toNat → n.toNat ≤ 31 → t.extractLsb' (8 * (n.toNat - 28)) 8 = 0x0F#8) := by
  obtain ⟨rfl, rfl⟩ := FrameOutcome.sys.inj h
  refine ⟨fun hhigh => ?_, fun hlow hhigh => ?_, fun hlow hhigh => ?_, fun hlow hhigh => ?_⟩
  · exact (le32_byte_tag ho tickDeltaOffset (by simp [← ho, tickDeltaOffset]) hhigh).trans htag
  · exact (le32_byte_tag ho tickIdleTimeOffset hlow hhigh).trans htag
  · exact (le32_byte_tag ho totalTickTimeOffset hlow hhigh).trans htag
  · exact (le32_byte_tag ho tickOffset hlow hhigh).trans htag

/-- Settles O21: under `PRESERVE` each record comes from its own tag, and that tag is the byte at `n - 1`. -/
theorem shortReadTagOverlapsItsField : Obligations.ShortReadTagOverlapsItsField := by
  intro B n o ho
  rcases decodeTransaction_cases_at .preserve B ho with
    ⟨-, h⟩ | ⟨-, ht, -⟩ | ⟨htag, -, h⟩ | ⟨htag, -, h⟩ | ⟨htag, -, h⟩
  · rw [h]
    exact ⟨nofun, nofun, nofun⟩
  · exact nomatch ht
  · rw [h]
    exact ⟨fun _ _ => envRecord_tag_overlap ho htag, nofun, nofun⟩
  · rw [h]
    exact ⟨nofun, fun _ _ => balRecord_tag_overlap ho htag, nofun⟩
  · rw [h]
    exact ⟨nofun, nofun, fun _ _ => sysRecord_tag_overlap ho htag⟩

/-! One buffer under two lengths. -/

/-- Settles O23, on the vectors D31 and D32: the tag is the byte at offset 30, or at offset 31. -/
theorem oneBufferTwoLengthsTwoVariants : Obligations.OneBufferTwoLengthsTwoVariants :=
  ⟨_, rfl, by decide, by decide⟩

end Sys2Proof.Machine

/-! ### Encoding: the table word, the canonical line and the builder (30_encoding.md R62 to R64) -/

namespace Sys2Proof.Machine

/-- A table word's tag at offset 31 of an empty buffer is its full frame. -/
theorem withFetchWord_B (s : State) (nbits w : Nat) :
    (s.withFetchWord nbits w).B = tableFrame (tableTag nbits w) := by
  funext o
  exact Memory.read_write Memory.wf_nil 31 o _

/-- Settles O46: the presented frame is the one the table word is decoded from, and its operands are held. -/
theorem fetchWordIsWhatStepRuns : Obligations.FetchWordIsWhatStepRuns := by
  intro s nbits w
  refine ⟨classify (tableTag nbits w), _, ?_, exec_eq _ _, step_decoded rfl rfl ?_⟩
  · simp only [decodeTableWord, decode_tableFrame]
  · rw [withFetchWord_B]
    exact decode_tableFrame _

/-! The canonical line. -/

/-- Writing a row of bytes that fits puts each at its offset and leaves every other offset. -/
theorem Memory.read_writeBytes {m : Memory} (h : m.wf = true) {off : Nat} {bytes : List Byte}
    (hfit : off + bytes.length ≤ 32) :
    ∃ m', m.writeBytes off bytes = some m' ∧
      ∀ o : Fin 32, m'.read o = if off ≤ o.val then bytes.getD (o.val - off) (m.read o) else m.read o := by
  induction bytes generalizing m off with
  | nil => exact ⟨m, rfl, fun o => by simp⟩
  | cons b rest ih =>
    rw [List.length_cons] at hfit
    have hoff : off < 32 := by omega
    obtain ⟨m', hwrite, hread⟩ := ih (Memory.wf_write h ⟨off, hoff⟩ b) (off := off + 1) (by omega)
    refine ⟨m', by rw [Memory.writeBytes, dif_pos hoff, hwrite], fun o => ?_⟩
    rw [hread, Memory.read_write h]
    by_cases heq : o = ⟨off, hoff⟩
    · simp [heq]
    · have hne : o.val ≠ off := fun hval => heq (Fin.ext hval)
      simp only [if_neg heq]
      by_cases hle : off ≤ o.val
      · have hsucc : o.val - off = o.val - (off + 1) + 1 := by omega
        rw [if_pos (by omega), if_pos hle, hsucc, List.getD_cons_succ]
      · rw [if_neg (by omega), if_neg hle]

/-- A line of 32 bytes is a transaction with nothing redriven, a canonical buffer, and these bytes. -/
theorem Transaction.ofBytes_eq_some (n : Len) {bytes : List Byte} (hlen : bytes.length = 32) :
    ∃ m : Memory, Transaction.ofBytes n bytes = some { frame := m, n := n } ∧ m.wf = true ∧
      Frame.bytes m.view = bytes := by
  obtain ⟨m, hwrite, hread⟩ := Memory.read_writeBytes Memory.wf_nil (off := 0) (bytes := bytes) (by omega)
  refine ⟨m, by simp [Transaction.ofBytes, hlen, hwrite], Memory.wf_writeBytes Memory.wf_nil hwrite, ?_⟩
  refine List.ext_getElem (by simp [Frame.bytes, hlen]) fun i hi hi' => ?_
  simp [Frame.bytes, hread, hi']

/-- Two buffers with the same 32 bytes read alike at every offset. -/
theorem read_eq_of_bytes_eq {m m' : Memory} (h : Frame.bytes m.view = Frame.bytes m'.view) (o : Fin 32) :
    m.read o = m'.read o :=
  List.map_inj_left.1 h o (List.mem_finRange o)

/-- A decimal numeral has one value. -/
theorem toDigits_ten_injective : Function.Injective (Nat.toDigits 10) := fun a b h => by
  rw [← Nat.ofDigitChars_ten_toDigits (n := a), h, Nat.ofDigitChars_ten_toDigits]

/-- The sixteen hexadecimal digits are different characters. -/
theorem hexDigit_inj {d d' : Nat} (h : hexDigit d = hexDigit d') (hd : d < 16) (hd' : d' < 16) : d = d' := by
  have hall : ∀ a b : Fin 16, hexDigit a = hexDigit b → a = b := by decide
  exact congrArg Fin.val (hall ⟨d, hd⟩ ⟨d', hd'⟩ h)

/-- Two hexadecimal digits have one value. -/
theorem hexByte_injective : Function.Injective hexByte := fun b b' h => by
  have hb := b.isLt
  have hb' := b'.isLt
  obtain ⟨hhigh, hlow⟩ := (List.cons.inj h).imp_right fun ht => (List.cons.inj ht).1
  have h1 := hexDigit_inj hhigh (by omega) (by omega)
  have h2 := hexDigit_inj hlow (by omega) (by omega)
  exact BitVec.eq_of_toNat_eq (by omega)

/-- The text of a byte of the line: a space and its two digits. -/
theorem length_flatMap_hexByte (bytes : List Byte) :
    (bytes.flatMap fun b => ' ' :: hexByte b).length = 3 * bytes.length := by
  simp [List.length_flatMap, hexByte, Nat.mul_comm]

/-- Each byte takes three characters of the line, so the text fixes the bytes. -/
theorem flatMap_hexByte_injective : Function.Injective fun bytes : List Byte =>
    bytes.flatMap fun b => ' ' :: hexByte b := by
  intro bytes bytes' h
  induction bytes generalizing bytes' with
  | nil =>
    cases bytes' with
    | nil => rfl
    | cons b' rest' => exact nomatch h
  | cons b rest ih =>
    cases bytes' with
    | nil => exact nomatch h
    | cons b' rest' =>
      simp only [List.flatMap_cons] at h
      obtain ⟨hhead, htail⟩ := List.append_inj h rfl
      rw [hexByte_injective (List.cons.inj hhead).2, ih htail]

/-- The text of the line fixes `n` and the 32 bytes: the bytes take its last 96 characters. -/
theorem Transaction.line_inj {tx tx' : Transaction} (h : tx.line = tx'.line) :
    tx.n = tx'.n ∧ tx.bytes = tx'.bytes := by
  have hlen : ∀ t : Transaction, t.bytes.length = 32 := fun t => by simp [Transaction.bytes]
  obtain ⟨hhead, hbytes⟩ := List.append_inj' h (by simp only [length_flatMap_hexByte, hlen])
  have hdigits := List.append_cancel_left (List.append_cancel_right hhead)
  exact ⟨BitVec.eq_of_toNat_eq (toDigits_ten_injective hdigits), flatMap_hexByte_injective hbytes⟩

/-- Settles O44: the bytes are written into a canonical buffer, which they fix, and the line's text fixes them and
`n`. -/
theorem canonicalLineCarriesTheOperands : Obligations.CanonicalLineCarriesTheOperands := by
  refine ⟨fun n bytes hlen => ?_, fun tx hwf hheld => ?_, fun tx tx' => Transaction.line_inj⟩
  · obtain ⟨m, hof, hwf, hbytes⟩ := Transaction.ofBytes_eq_some n hlen
    exact ⟨_, hof, hbytes, rfl, hwf⟩
  · have hlen : tx.bytes.length = 32 := by simp [Transaction.bytes]
    obtain ⟨m, hof, hmwf, hbytes⟩ := Transaction.ofBytes_eq_some tx.n hlen
    have hframe : m = tx.frame := Memory.eq_of_read_eq hmwf hwf (read_eq_of_bytes_eq hbytes)
    rw [hof, hframe, ← hheld]

/-! The builder. -/

/-- Settles O45: the example's bytes, and the digits of its line. -/
theorem builderExampleExpands : Obligations.BuilderExampleExpands :=
  ⟨_, rfl, by decide, by decide⟩

end Sys2Proof.Machine

/-! ### Dispatch: CLASSIFY, the step and DECODE (40_dispatch.md) -/

namespace Sys2Proof

/-- CLASSIFY answers UNK exactly for an unknown tag, and UNK carries that tag (R67). -/
theorem classify_eq_unk_iff {tag u : Byte} : classify tag = .unk u ↔ u = tag ∧ isKnownTag tag = false := by
  rw [classify_eq_iff]
  constructor
  · rintro ⟨hwf, rfl⟩
    exact ⟨rfl, by simpa [Instr.wellFormed] using hwf⟩
  · rintro ⟨rfl, hunknown⟩
    exact ⟨by simp [Instr.wellFormed, hunknown], rfl⟩

/-- Settles O2: a tag selects the well-formed instruction it encodes; ENV, BAL and SYS always are, UNK where its tag is
unknown. -/
theorem classifyComparesTheWholeTag : Obligations.ClassifyComparesTheWholeTag := by
  intro tag
  have hknown {i : Instr} (hwf : i.wellFormed = true) : classify tag = i ↔ tag = encode i := by
    rw [classify_eq_iff, and_iff_right hwf]
  exact ⟨hknown rfl, hknown rfl, hknown rfl, fun u => by rw [classify_eq_unk_iff, isKnownTag_eq_false]; rfl⟩

end Sys2Proof

namespace Sys2Proof.Machine

/-- Settles O24: an instruction always answers a next state, and the step hands that state over. -/
theorem stepRunsTheDecodedInstruction : Obligations.StepRunsTheDecodedInstruction := by
  intro s i hv hh hd
  exact ⟨_, exec_eq i s, step_decoded hv hh hd⟩

/-- Settles O14: UNK delivers its tag unconditionally, and an unknown tag at `n - 1` decodes to UNK of that tag. -/
theorem unkReportsTheRawTag : Obligations.UnkReportsTheRawTag := by
  intro s tag
  refine ⟨exec_eq (.unk tag) s, ?_⟩
  rintro o hv hh ho rfl henv hbal hsys
  have hunk : classify (s.B o) = .unk (s.B o) :=
    classify_eq_unk_iff.2 ⟨rfl, isKnownTag_eq_false.2 ⟨henv, hbal, hsys⟩⟩
  exact step_decoded hv hh (decode_eq_ok_iff.2 ⟨o, ho, hunk⟩)

/-! The refinement of DECODE. -/

/-- A well-formed instruction truncates if its tag is known and the policy asks for it; else it yields its record. -/
theorem instrOutcome_eq_instrRecord {s : State} {i : Instr} (hwf : i.wellFormed = true) :
    instrOutcome s i =
      if isKnownTag (encode i) = true ∧ truncates s.truncPolicy s.rxLen = true then .truncatedPayload s.rxLen (encode i)
      else instrRecord s.B i := by
  cases i with
  | env => simp [instrOutcome, instrRecord, encode, show isKnownTag Config.tagEnv = true from rfl]
  | bal => simp [instrOutcome, instrRecord, encode, show isKnownTag Config.tagBal = true from rfl]
  | sys => simp [instrOutcome, instrRecord, encode, show isKnownTag Config.tagSys = true from rfl]
  | unk tag =>
    have hunknown : isKnownTag tag = false := by simpa [Instr.wellFormed] using hwf
    simp [instrOutcome, instrRecord, encode, hunknown]

/-- Where the tag lies in the frame, the instruction it selects delivers DECODE's outcome. -/
theorem instrOutcome_classify {s : State} {o : Fin 32} (ho : o.val + 1 = s.rxLen.toNat) :
    instrOutcome s (classify (s.B o)) = decodeTransaction s.truncPolicy s.B s.rxLen := by
  rw [instrOutcome_eq_instrRecord (classify_wellFormed _), encode_classify, decodeTransaction_eq_instrRecord ho]

/-- Settles O29: by the three cases of the length, each the same in the decoder and in DECODE. -/
theorem stepRefinesDecode : Obligations.StepRefinesDecode := by
  intro s hv hh
  rcases length_cases s.rxLen with h0 | h33 | ⟨o, ho⟩
  · rw [decodeTransaction_zero h0]
    exact step_rejected hv hh (decode_zero h0)
  · rw [decodeTransaction_above h33]
    exact step_rejected hv hh (decode_above h33)
  · rw [← instrOutcome_classify ho]
    exact step_decoded hv hh (decode_at ho)

/-- Settles O31: both steps deliver DECODE's outcome, a function of the bytes, the length and the policy. -/
theorem outcomeDependsOnItsOwnOperandsOnly : Obligations.OutcomeDependsOnItsOwnOperandsOnly := by
  intro s s' hv hv' hh hh' hB hn hpolicy
  have hstep' := stepRefinesDecode s' hv' hh'
  rw [← hpolicy, ← hn, ← show s.B = s'.B from funext hB] at hstep'
  exact ⟨_, _, _, stepRefinesDecode s hv hh, hstep', advance_delivered _, advance_delivered _⟩

/-! The outcomes that are not records. -/

/-- `ShortFrame` occurs exactly for the length 0 (R98). -/
theorem decodeTransaction_eq_shortFrame_iff {policy : TruncPolicy} {B : Frame} {n : Len} :
    decodeTransaction policy B n = .shortFrame ↔ n.toNat = 0 :=
  ⟨fun h => (kind_of_length policy B n).1.1 (by rw [h]; rfl), decodeTransaction_zero⟩

/-- `LengthOutOfRange` occurs exactly for the lengths above the frame, and carries the length (R101). -/
theorem decodeTransaction_eq_lengthOutOfRange_iff {policy : TruncPolicy} {B : Frame} {n m : Len} :
    decodeTransaction policy B n = .lengthOutOfRange m ↔ m = n ∧ 33 ≤ n.toNat := by
  constructor
  · intro h
    have hcarries := decodeTransaction_carries policy B n
    rw [h] at hcarries
    exact ⟨hcarries, (kind_of_length policy B n).2.1 (by rw [h]; rfl)⟩
  · rintro ⟨rfl, h33⟩
    exact decodeTransaction_above h33

/-- `tag_raw` is a tag exactly where the byte at `n - 1` is that tag. -/
theorem tagRaw?_eq_some_iff {B : Frame} {n : Len} {tag : Byte} :
    tagRaw? B n = some tag ↔ ∃ o : Fin 32, o.val + 1 = n.toNat ∧ B o = tag := by
  constructor
  · intro h
    obtain ⟨⟨hlower, hupper⟩, htag⟩ := Option.dite_none_right_eq_some.1 h
    exact ⟨_, Nat.sub_add_cancel hlower, Option.some.inj htag⟩
  · rintro ⟨o, ho, rfl⟩
    exact tagRaw?_at ho

/-- `UnrecognizedTag` occurs exactly where the byte at `n - 1` is an unknown tag, and carries it (R99). -/
theorem decodeTransaction_eq_unrecognizedTag_iff {policy : TruncPolicy} {B : Frame} {n : Len} {tag : Byte} :
    decodeTransaction policy B n = .unrecognizedTag tag ↔
      ∃ o : Fin 32, o.val + 1 = n.toNat ∧ B o = tag ∧ isKnownTag tag = false := by
  constructor
  · intro h
    have hcarries := decodeTransaction_carries policy B n
    rw [h] at hcarries
    obtain ⟨o, ho, rfl⟩ := tagRaw?_eq_some_iff.1 hcarries
    obtain ⟨-, -, -, hunknown, -⟩ := kind_of_tag (policy := policy) (B := B) ho
    exact ⟨o, ho, rfl, hunknown.1 (by rw [h]; rfl)⟩
  · rintro ⟨o, ho, rfl, hunknown⟩
    rw [decodeTransaction_at ho, if_pos (isKnownTag_eq_false.1 hunknown)]

/-- `TruncatedPayload` occurs exactly where the policy truncates and the byte at `n - 1` is a known tag, and carries the
length and that tag (R100). -/
theorem decodeTransaction_eq_truncatedPayload_iff {policy : TruncPolicy} {B : Frame} {n m : Len} {tag : Byte} :
    decodeTransaction policy B n = .truncatedPayload m tag ↔
      m = n ∧ truncates policy n = true ∧ ∃ o : Fin 32, o.val + 1 = n.toNat ∧ B o = tag ∧ isKnownTag tag = true := by
  constructor
  · intro h
    have hcarries := decodeTransaction_carries policy B n
    rw [h] at hcarries
    obtain ⟨hlength, htag⟩ := hcarries
    obtain ⟨o, ho, rfl⟩ := tagRaw?_eq_some_iff.1 htag
    obtain ⟨-, -, -, -, htruncated⟩ := kind_of_tag (policy := policy) (B := B) ho
    obtain ⟨ht, hknown⟩ := htruncated.1 (by rw [h]; rfl)
    exact ⟨hlength, ht, o, ho, rfl, hknown⟩
  · rintro ⟨rfl, ht, o, ho, rfl, hknown⟩
    rw [decodeTransaction_eq_instrRecord ho, if_pos ⟨hknown, ht⟩]

/-- Settles O17: one equivalence for each of the four outcomes, with the known tags written out. -/
theorem nonRecordOutcomesOccurExactlyWhen : Obligations.NonRecordOutcomesOccurExactlyWhen := by
  intro policy B n
  refine ⟨decodeTransaction_eq_shortFrame_iff, fun m => decodeTransaction_eq_lengthOutOfRange_iff, fun tag => ?_,
    fun m tag => ?_⟩
  · simp only [decodeTransaction_eq_unrecognizedTag_iff, isKnownTag_eq_false]
    rfl
  · simp only [decodeTransaction_eq_truncatedPayload_iff, isKnownTag_iff, truncates_iff, and_assoc]
    exact and_left_comm

end Sys2Proof.Machine

/-! ### The extractors: LE32, STALE and the tick counter (41_field_extract.md) -/

namespace Sys2Proof.Machine

/-- A byte put below a number has the weight 1, and the number the weight 256 (R32). -/
theorem toNat_append_byte {w : Nat} (x : BitVec w) (b : Byte) : (x ++ b).toNat = 256 * x.toNat + b.toNat := by
  rw [BitVec.toNat_append, ← Nat.shiftLeft_add_eq_or_of_lt b.isLt, Nat.shiftLeft_eq, Nat.mul_comm]

/-- LE32 is the weighted sum of its bytes (R74). -/
theorem le32_toNat (B : Frame) (o : Fin 29) : (le32 B o).toNat = leValue B o := by
  simp only [le32, leValue, toNat_append_byte]
  omega

/-- The weighted sum as a word: nothing is lost, since it is what LE32 holds. -/
theorem le32_eq_ofNat (B : Frame) (o : Fin 29) : le32 B o = BitVec.ofNat 32 (leValue B o) := by
  rw [← le32_toNat, BitVec.ofNat_toNat, BitVec.setWidth_eq]

/-- The weighted sum has no overflow (R78). -/
theorem leValue_lt (B : Frame) (o : Fin 29) : leValue B o < 2 ^ 32 :=
  le32_toNat B o ▸ (le32 B o).isLt

/-- Settles O7: the weights by appending byte after byte, the slices by the frame port's. -/
theorem le32IsTheWeightedSumAndItsSlicesTheBytes : Obligations.Le32IsTheWeightedSumAndItsSlicesTheBytes := by
  intro B o
  have hbyte (j : Nat) (hj : j < 4) : (le32 B o).extractLsb' (8 * j) 8 = B ⟨o.val + j, by omega⟩ :=
    le32_byte B o hj rfl
  exact ⟨le32_toNat B o, leValue_lt B o, hbyte 0 (by omega), hbyte 1 (by omega), hbyte 2 (by omega),
    hbyte 3 (by omega)⟩

/-- If the four bytes are the base-256 digits of a value, LE32 is that value (R79). -/
theorem le32_eq_of_digits {B : Frame} {o : Fin 29} {v : U32}
    (h0 : (B ⟨o.val, by omega⟩).toNat = v.toNat % 256)
    (h1 : (B ⟨o.val + 1, by omega⟩).toNat = v.toNat / 256 % 256)
    (h2 : (B ⟨o.val + 2, by omega⟩).toNat = v.toNat / 65536 % 256)
    (h3 : (B ⟨o.val + 3, by omega⟩).toNat = v.toNat / 16777216) : le32 B o = v := by
  apply BitVec.eq_of_toNat_eq
  rw [le32_toNat, leValue, h0, h1, h2, h3]
  omega

/-- Equal values of LE32 have equal bytes: each byte is a slice of the value (R78). -/
theorem byte_eq_of_le32_eq {B B' : Frame} {o : Fin 29} (h : le32 B o = le32 B' o) {k : Fin 32}
    (hlow : o.val ≤ k.val) (hhigh : k.val ≤ o.val + 3) : B k = B' k := by
  have hj : k.val - o.val < 4 := by omega
  have hk : k.val = o.val + (k.val - o.val) := by omega
  rw [← le32_byte B o hj hk, h, le32_byte B' o hj hk]

/-- Settles O8: the digits fix the weighted sum, and its slices fix the bytes. -/
theorem le32RoundTripsAndIsInjective : Obligations.Le32RoundTripsAndIsInjective :=
  ⟨fun _ _ _ => le32_eq_of_digits, fun _ _ _ h _ => byte_eq_of_le32_eq h⟩

/-! STALE. -/

/-- The unsigned test of R75. -/
theorem stale_iff_toNat {B : Frame} {o : Fin 32} : stale B o = true ↔ (B o).toNat < 1 := by
  rw [stale, decide_eq_true_iff, BitVec.lt_def]
  rfl

/-- The byte below 1 is the byte 0 (R75). -/
theorem stale_iff {B : Frame} {o : Fin 32} : stale B o = true ↔ B o = 0x00#8 := by
  rw [stale_iff_toNat, Nat.lt_one_iff, BitVec.toNat_eq]
  rfl

/-- STALE as the comparison with 0, the spelling of R82 and R83. -/
theorem stale_eq_beq (B : Frame) (o : Fin 32) : stale B o = (B o == 0x00#8) :=
  Bool.eq_iff_iff.2 (stale_iff.trans beq_iff_eq.symm)

/-- Settles O9: the unsigned test is the definition, and 0 is the one byte below 1. -/
theorem staleExactlyWhenTheByteIsZero : Obligations.StaleExactlyWhenTheByteIsZero :=
  fun _ _ => ⟨stale_iff, stale_iff_toNat⟩

/-! The three variants, and the tick counter of a record. -/

/-- Settles O10: the records hold the bytes 0 and 1 as they are, and the low bytes of `tick_delta` are the bytes 0
to 2. -/
theorem oneFrameThreeReadings : Obligations.OneFrameThreeReadings := by
  intro B t
  have hbyte0 : (le32 B tickDeltaOffset).extractLsb' 0 8 = B 0 := le32_byte B _ (j := 0) (by omega) rfl
  have hbyte1 : (le32 B tickDeltaOffset).extractLsb' 8 8 = B 1 := le32_byte B _ (j := 1) (by omega) rfl
  have hbyte2 : (le32 B tickDeltaOffset).extractLsb' 16 8 = B 2 := le32_byte B _ (j := 2) (by omega) rfl
  refine ⟨_, _, _, rfl, rfl, rfl, rfl, rfl, hbyte0, rfl, rfl, hbyte1, ?_⟩
  rw [hbyte2]
  exact stale_eq_beq B staleOffset

/-- The tick counter by the weights (R76). -/
theorem tick_eq_ofNat (B : Frame) : tick B = BitVec.ofNat 32 (leValue B 27) := le32_eq_ofNat B tickOffset

/-- Every record of DECODE carries the same tick counter, and what is not a record carries none (R77). -/
theorem decodeTransaction_tick? (policy : TruncPolicy) (B : Frame) (n : Len) :
    (decodeTransaction policy B n).tick? =
      if (decodeTransaction policy B n).isRecord then some (tick B) else none := by
  rcases length_cases n with h0 | h33 | ⟨o, ho⟩
  · rw [decodeTransaction_zero h0]
    rfl
  · rw [decodeTransaction_above h33]
    rfl
  · rcases decodeTransaction_cases_at policy B ho with
      ⟨-, h⟩ | ⟨-, -, h⟩ | ⟨-, -, h⟩ | ⟨-, -, h⟩ | ⟨-, -, h⟩ <;> rw [h] <;> rfl

/-- Settles O19: by DECODE's cases, with the tick counter as its weighted sum. -/
theorem tickIsAttachedToRecordsOnly : Obligations.TickIsAttachedToRecordsOnly := by
  intro policy B n
  rw [← tick_eq_ofNat]
  exact decodeTransaction_tick? policy B n

end Sys2Proof.Machine

/-! ### Environment: ENV's record (42_environment.md) -/

namespace Sys2Proof.Machine

/-- Where the policy does not truncate, a well-formed instruction delivers its record (R65 lines 4, 6 and 7). -/
theorem instrOutcome_of_untruncated {s : State} {i : Instr} (hwf : i.wellFormed = true)
    (huntruncated : s.truncPolicy = .preserve ∨ 32 ≤ s.rxLen.toNat) : instrOutcome s i = instrRecord s.B i := by
  simp [instrOutcome_eq_instrRecord hwf, truncates_eq_false huntruncated]

/-- A presented, held frame whose tag is a well-formed instruction's runs that instruction (R65 lines 1 to 4). -/
theorem step_of_tag {s : State} {i : Instr} (hwf : i.wellFormed = true) (hv : s.inValid = true) (hh : s.held = true)
    {o : Fin 32} (ho : o.val + 1 = s.rxLen.toNat) (htag : s.B o = encode i) :
    step s = .next (s.deliver (instrOutcome s i)).advance :=
  step_decoded hv hh (decode_eq_ok_iff.2 ⟨o, ho, classify_eq_iff.2 ⟨hwf, htag⟩⟩)

/-- ENV's record in the spelling of R83: the flag as the comparison with 0, the tick counter by its weights. -/
theorem instrRecord_env (B : Frame) :
    instrRecord B .env =
      .env { internalTemperatureC := B 0, internalHumidityPercent := B 1, isStale := B 2 == 0x00#8 }
        (BitVec.ofNat 32 (leValue B 27)) := by
  rw [instrRecord, envRecord, tick_eq_ofNat, stale_eq_beq]
  rfl

/-- Settles O11: untruncated, ENV delivers its record, and the tag 0x00 selects ENV. -/
theorem envDeliversItsRecord : Obligations.EnvDeliversItsRecord := by
  intro s huntruncated
  have hrecord := (instrOutcome_of_untruncated (i := .env) rfl huntruncated).trans (instrRecord_env s.B)
  constructor
  · rw [exec_eq, hrecord]
    rfl
  · intro o hv hh ho htag
    rw [step_of_tag (i := .env) rfl hv hh ho htag, hrecord]
    rfl

end Sys2Proof.Machine

/-! ### Ballast: BAL's record (43_ballast.md) -/

namespace Sys2Proof.Machine

/-- Where the policy does not truncate, a well-formed instruction appends its record, and so does the step on a presented,
held frame with its tag, which then hands over. -/
theorem delivers_instrRecord {s : State} {i : Instr} (hwf : i.wellFormed = true)
    (huntruncated : s.truncPolicy = .preserve ∨ 32 ≤ s.rxLen.toNat) :
    exec i s = .next (s.deliver (instrRecord s.B i)) ∧
    ∀ o : Fin 32, s.inValid = true → s.held = true → o.val + 1 = s.rxLen.toNat → s.B o = encode i →
      step s = .next (s.deliver (instrRecord s.B i)).advance := by
  rw [← instrOutcome_of_untruncated hwf huntruncated]
  exact ⟨exec_eq i s, fun _ hv hh ho htag => step_of_tag hwf hv hh ho htag⟩

/-- BAL's record in the spelling of R88: two bytes as they are (R89), the tick counter by its weights. -/
theorem instrRecord_bal (B : Frame) :
    instrRecord B .bal = .bal { currentState := B 0, targetState := B 1 } (BitVec.ofNat 32 (leValue B 27)) := by
  rw [instrRecord, balRecord, tick_eq_ofNat]
  rfl

/-- Settles O12: untruncated, BAL delivers its record, and the tag 0x01 selects BAL. -/
theorem balDeliversItsRecord : Obligations.BalDeliversItsRecord := by
  intro s huntruncated
  have h := delivers_instrRecord (i := .bal) rfl huntruncated
  rw [instrRecord_bal] at h
  exact h

end Sys2Proof.Machine

/-! ### System: SYS's record and its round trip through the builder (44_system.md) -/

namespace Sys2Proof.Machine

/-- SYS's record in the spelling of R92: the three fields and the tick counter by their weights. -/
theorem instrRecord_sys (B : Frame) :
    instrRecord B .sys =
      .sys { tickDelta := BitVec.ofNat 32 (leValue B 0)
             tickIdleTime := BitVec.ofNat 32 (leValue B 4)
             totalTickTime := BitVec.ofNat 32 (leValue B 8) } (BitVec.ofNat 32 (leValue B 27)) := by
  rw [instrRecord, sysRecord, tick_eq_ofNat, le32_eq_ofNat, le32_eq_ofNat, le32_eq_ofNat]
  rfl

/-- Settles O13: untruncated, SYS delivers its record, and the tag 0x0F selects SYS. -/
theorem sysDeliversItsRecord : Obligations.SysDeliversItsRecord := by
  intro s huntruncated
  have h := delivers_instrRecord (i := .sys) rfl huntruncated
  rw [instrRecord_sys] at h
  exact h

/-! The round trip. -/

/-- Where the policy does not truncate, DECODE yields the record of the instruction whose tag stands at `n - 1`. -/
theorem decodeTransaction_of_tag {policy : TruncPolicy} {B : Frame} {n : Len} {i : Instr} {o : Fin 32}
    (hwf : i.wellFormed = true) (huntruncated : policy = .preserve ∨ 32 ≤ n.toNat) (ho : o.val + 1 = n.toNat)
    (htag : B o = encode i) : decodeTransaction policy B n = instrRecord B i := by
  simp [decodeTransaction_eq_instrRecord ho, truncates_eq_false huntruncated, htag, classify_encode hwf]

/-- Where a frame holds the bytes of the builder's `le32` item, LE32 gives the item's value back (R63, R79). -/
theorem le32_eq_of_item_bytes {B : Frame} {o : Fin 29} {v : U32}
    (h : [B ⟨o.val, by omega⟩, B ⟨o.val + 1, by omega⟩, B ⟨o.val + 2, by omega⟩, B ⟨o.val + 3, by omega⟩] =
      (FrameItem.le32 v).bytes) : le32 B o = v := by
  obtain ⟨h0, h1, h2, h3⟩ : _ ∧ _ ∧ _ ∧ _ := by simpa only [FrameItem.bytes, List.cons.injEq, and_true] using h
  refine le32_eq_of_digits ?_ ?_ ?_ ?_
  · rw [h0, BitVec.toNat_ofNat, Nat.mod_mod]
  · rw [h1, BitVec.toNat_ofNat, Nat.mod_mod]
  · rw [h2, BitVec.toNat_ofNat, Nat.mod_mod]
  · rw [h3, BitVec.toNat_ofNat]
    omega

/-- R93's System frame as a builder line: three fields, the tick counter and the tag 0x0F over a fill. -/
def systemLine (fill : Byte) (d i t k : U32) : FrameBuilder :=
  { n := 32#6, fill := fill,
    groups := [{ off := 0, items := [.le32 d, .le32 i, .le32 t] }, { off := 27, items := [.le32 k] },
      { off := 31, items := [.byte 0x0F#8] }] }

/-- A System line expands to a full frame that holds the three fields, the tick counter and the tag where SYS reads them:
its groups do not overlap. -/
theorem expand_systemLine (fill : Byte) (d i t k : U32) :
    ∃ m : Memory, (systemLine fill d i t k).expand = some { frame := m, n := 32#6 } ∧
      le32 m.view 0 = d ∧ le32 m.view 4 = i ∧ le32 m.view 8 = t ∧ le32 m.view 27 = k ∧ m.view 31 = 0x0F#8 := by
  obtain ⟨m₁, hfields, hread₁⟩ := Memory.read_writeBytes (Memory.wf_filled fill) (off := 0)
    (bytes := [.le32 d, .le32 i, .le32 t].flatMap FrameItem.bytes) (by simp [FrameItem.bytes])
  have hwf₁ := Memory.wf_writeBytes (Memory.wf_filled fill) hfields
  obtain ⟨m₂, htick, hread₂⟩ := Memory.read_writeBytes hwf₁ (off := 27)
    (bytes := [.le32 k].flatMap FrameItem.bytes) (by simp [FrameItem.bytes])
  obtain ⟨m₃, htag, hread₃⟩ := Memory.read_writeBytes (Memory.wf_writeBytes hwf₁ htick) (off := 31)
    (bytes := [.byte 0x0F#8].flatMap FrameItem.bytes) (by simp [FrameItem.bytes])
  refine ⟨m₃,
    by simp only [systemLine, FrameBuilder.expand, Memory.writeGroups, hfields, htick, htag, Option.map_some],
    le32_eq_of_item_bytes ?_, le32_eq_of_item_bytes ?_, le32_eq_of_item_bytes ?_, le32_eq_of_item_bytes ?_, ?_⟩ <;>
    simp [hread₃, hread₂, hread₁, FrameItem.bytes]

/-- Settles O43: the line's frame holds the fields where SYS reads them, and its tag selects SYS at the full length, where
no policy truncates. -/
theorem systemFieldsRoundTripThroughTheBuilder : Obligations.SystemFieldsRoundTripThroughTheBuilder := by
  intro policy fill d i t k
  obtain ⟨m, hexpand, rfl, rfl, rfl, rfl, htag⟩ := expand_systemLine fill d i t k
  exact ⟨_, hexpand, decodeTransaction_of_tag (i := .sys) (o := 31) rfl (.inr le_rfl) rfl htag⟩

end Sys2Proof.Machine

/-! ### Exceptions: the outcomes that are not records (60_exceptions.md) -/

namespace Sys2Proof.Machine

/-! The two lengths that locate no tag. -/

/-- Settles O27: the decoder rejects the length 0 before any byte is read. -/
theorem zeroLengthYieldsShortFrame : Obligations.ZeroLengthYieldsShortFrame := by
  intro s hv hh h0
  exact step_rejected hv hh (decode_zero h0)

/-- Settles O28: the decoder rejects a length above the frame before any byte is read. -/
theorem lengthAboveFrameYieldsLengthOutOfRange : Obligations.LengthAboveFrameYieldsLengthOutOfRange := by
  intro s hv hh h33
  exact step_rejected hv hh (decode_above h33)

/-! The truncation of short reads under `FAULT`. -/

/-- ENV, BAL and SYS are well formed, and their tags are the known ones. -/
theorem wellFormed_and_isKnownTag {i : Instr} (hi : i = .env ∨ i = .bal ∨ i = .sys) :
    i.wellFormed = true ∧ isKnownTag (encode i) = true := by
  rcases hi with rfl | rfl | rfl
  · exact ⟨rfl, rfl⟩
  · exact ⟨rfl, rfl⟩
  · exact ⟨rfl, rfl⟩

/-- Where the policy truncates, an instruction with a known tag delivers `TruncatedPayload` in place of its record. -/
theorem instrOutcome_of_truncated {s : State} {i : Instr} (hi : i = .env ∨ i = .bal ∨ i = .sys)
    (ht : truncates s.truncPolicy s.rxLen = true) : instrOutcome s i = .truncatedPayload s.rxLen (encode i) := by
  obtain ⟨hwf, hknown⟩ := wellFormed_and_isKnownTag hi
  rw [instrOutcome_eq_instrRecord hwf, if_pos ⟨hknown, ht⟩]

/-- Settles O15: an instruction with a known tag truncates, on `exec` and on the step that its tag selects. -/
theorem faultPolicyTruncatesKnownShortReads : Obligations.FaultPolicyTruncatesKnownShortReads := by
  intro s i hfault hshort hi
  have hout := instrOutcome_of_truncated hi (truncates_iff.2 ⟨hfault, hshort⟩)
  constructor
  · rw [exec_eq, hout]
    rfl
  · intro o hv hh ho htag
    rw [step_of_tag (wellFormed_and_isKnownTag hi).1 hv hh ho htag, hout]
    rfl

/-- A well-formed instruction yields a record exactly if its tag is known (R97). -/
theorem isRecord_instrRecord (B : Frame) {i : Instr} (hwf : i.wellFormed = true) :
    (instrRecord B i).isRecord = isKnownTag (encode i) := by
  cases i with
  | env => rfl
  | bal => rfl
  | sys => rfl
  | unk tag =>
    have hunknown : isKnownTag tag = false := by simpa [Instr.wellFormed] using hwf
    exact hunknown.symm

/-- Where the tag lies in the frame, `PRESERVE` yields a record exactly if the tag is known. -/
theorem isRecord_preserve_at {B : Frame} {n : Len} {o : Fin 32} (ho : o.val + 1 = n.toNat) :
    (decodeTransaction .preserve B n).isRecord = isKnownTag (B o) := by
  have huntruncated : decodeTransaction .preserve B n = instrRecord B (classify (B o)) := by
    simp [decodeTransaction_eq_instrRecord ho]
  rw [huntruncated, isRecord_instrRecord B (classify_wellFormed _), encode_classify]

/-- Settles O18: a bad length has its own outcome under both policies; elsewhere `PRESERVE` gives a record exactly for a
known tag, and `FAULT` truncates exactly the short reads among those. -/
theorem faultPolicyChangesOnlyShortRecords : Obligations.FaultPolicyChangesOnlyShortRecords := by
  intro B n
  rcases length_cases n with h0 | h33 | ⟨o, ho⟩
  · simp [decodeTransaction_zero h0, FrameOutcome.isRecord]
  · simp [decodeTransaction_above h33, FrameOutcome.isRecord]
  · rw [isRecord_preserve_at ho]
    split
    · next h =>
      obtain ⟨hknown, hshort⟩ := h
      have ht : truncates .fault n = true := truncates_iff.2 ⟨rfl, hshort⟩
      exact ⟨o, ho, decodeTransaction_eq_truncatedPayload_iff.2 ⟨rfl, ht, o, ho, rfl, hknown⟩⟩
    · next hother => simp [decodeTransaction_eq_instrRecord ho, hother]

/-! The environment's fault mark. -/

@[simp] theorem environmentFault_deliver (s : State) (out : FrameOutcome) :
    (s.deliver out).environmentFault = (s.environmentFault || out.isLengthOutOfRange) := by
  simp [State.environmentFault]

@[simp] theorem environmentFault_advance (s : State) : s.advance.environmentFault = s.environmentFault := by
  simp [State.environmentFault]

theorem isLengthOutOfRange_iff {out : FrameOutcome} :
    out.isLengthOutOfRange = true ↔ ∃ m : Len, out = .lengthOutOfRange m := by
  cases out <;> simp [FrameOutcome.isLengthOutOfRange]

/-- DECODE's outcome sets the mark exactly for the lengths above the frame (R101). -/
theorem isLengthOutOfRange_decodeTransaction {policy : TruncPolicy} {B : Frame} {n : Len} :
    (decodeTransaction policy B n).isLengthOutOfRange = true ↔ 33 ≤ n.toNat := by
  simp [isLengthOutOfRange_iff, decodeTransaction_eq_lengthOutOfRange_iff]

/-- A step that answers was idle, or delivered DECODE's outcome; then it handed over. -/
theorem step_cases_decodeTransaction {s t : State} (h : step s = .next t) :
    (s.inValid = false ∧ t = s.advance) ∨
    (s.inValid = true ∧ t = (s.deliver (decodeTransaction s.truncPolicy s.B s.rxLen)).advance) := by
  rcases step_cases h with hidle | ⟨hv, hh, -⟩ | ⟨hv, hh, -⟩
  · exact .inl hidle
  · exact .inr ⟨hv, Host.Outcome.next.inj (h.symm.trans (stepRefinesDecode s hv hh))⟩
  · exact .inr ⟨hv, Host.Outcome.next.inj (h.symm.trans (stepRefinesDecode s hv hh))⟩

/-- Settles O38: the mark is kept by the hand-over, and the delivery adds to it exactly what DECODE's outcome says. -/
theorem environmentFaultMarkIsStickyAndExact : Obligations.EnvironmentFaultMarkIsStickyAndExact := by
  intro s t h
  rcases step_cases_decodeTransaction h with ⟨hv, rfl⟩ | ⟨hv, rfl⟩
  · simp [hv]
  · simp [hv, isLengthOutOfRange_decodeTransaction]

end Sys2Proof.Machine

/-! ### Reset and hazards: the order of the outcomes, and the reader's obligations (70_reset_and_hazards.md) -/

namespace Sys2Proof.Machine

/-! The transactions still to be decoded. -/

/-- The transaction on the ports. -/
def State.current (s : State) : Transaction := { frame := s.frame, n := s.rxLen, redriven := s.redriven }

@[simp] theorem current_n (s : State) : s.current.n = s.rxLen := rfl

@[simp] theorem current_held (s : State) : s.current.held = s.held := rfl

@[simp] theorem current_outcome (policy : TruncPolicy) (s : State) :
    s.current.outcome policy = decodeTransaction policy s.B s.rxLen := rfl

theorem presented_idle {s : State} (hv : s.inValid = false) : s.presented = s.queue := by
  simp [State.presented, hv]

theorem presented_valid {s : State} (hv : s.inValid = true) : s.presented = s.current :: s.queue := by
  simp [State.presented, State.current, hv]

theorem presented_eq_nil_iff {s : State} : s.presented = [] ↔ s.inValid = false ∧ s.queue = [] := by
  cases hv : s.inValid with
  | false => simp [presented_idle hv]
  | true => simp [presented_valid hv]

/-- The hand-over leaves exactly the reader's queue to be decoded. -/
@[simp] theorem presented_advance (s : State) : s.advance.presented = s.queue := by
  rcases h : s.queue with _ | ⟨t, later⟩
  · exact presented_eq_nil_iff.2 (by simp [h])
  · rw [presented_valid (by simp [h]), advance_cons h]
    rfl

/-- What holds of every transaction still to be decoded holds of the reader's queue. -/
theorem all_queue_of_all_presented {s : State} {p : Transaction → Bool} (h : s.presented.all p = true) :
    s.queue.all p = true := by
  cases hv : s.inValid with
  | false => rwa [presented_idle hv] at h
  | true =>
    rw [presented_valid hv, List.all_cons, Bool.and_eq_true] at h
    exact h.2

/-! Every outcome once and in order. -/

/-- The outcomes delivered, followed by DECODE of the transactions still to be decoded: what the sink has received in the
end, which a step leaves as it is. -/
def State.allOutcomes (s : State) : List FrameOutcome :=
  s.delivered ++ s.presented.map (·.outcome s.truncPolicy)

theorem allOutcomes_of_presented_nil {s : State} (h : s.presented = []) : s.allOutcomes = s.delivered := by
  simp [State.allOutcomes, h]

/-- With held operands a step answers, keeps all outcomes and the policy, and leaves the reader's queue to be decoded. -/
theorem step_keeps_allOutcomes {s : State} (h : s.presented.all (·.held) = true) :
    ∃ t : State, step s = .next t ∧ t.presented = s.queue ∧ t.queue = s.queue.tail ∧
      t.allOutcomes = s.allOutcomes ∧ t.truncPolicy = s.truncPolicy := by
  cases hv : s.inValid with
  | false =>
    have hall : s.advance.allOutcomes = s.allOutcomes := by simp [State.allOutcomes, presented_idle hv]
    exact ⟨_, step_idle hv, presented_advance s, advance_queue s, hall, advance_truncPolicy s⟩
  | true =>
    have hh : s.held = true := by
      rw [presented_valid hv, List.all_cons, Bool.and_eq_true] at h
      exact h.1
    have hall : (s.deliver (decodeTransaction s.truncPolicy s.B s.rxLen)).advance.allOutcomes = s.allOutcomes := by
      simp [State.allOutcomes, presented_valid hv]
    exact ⟨_, stepRefinesDecode s hv hh, presented_advance _, advance_queue _, hall, advance_truncPolicy _⟩

/-- With held operands, as many steps as the queue is long plus one leave nothing to be decoded and keep all outcomes. -/
theorem run_keeps_allOutcomes {s : State} (h : s.presented.all (·.held) = true) :
    ∃ t : State, Host.Core.run Sys2Proof.core (s.queue.length + 1) s = .next t ∧ t.presented = [] ∧
      t.allOutcomes = s.allOutcomes ∧ t.truncPolicy = s.truncPolicy := by
  induction hq : s.queue generalizing s with
  | nil =>
    obtain ⟨t, hstep, hpresented, -, hall, hpolicy⟩ := step_keeps_allOutcomes h
    exact ⟨t, run_succ hstep 0, hpresented.trans hq, hall, hpolicy⟩
  | cons tx later ih =>
    obtain ⟨t, hstep, hpresented, hqueue, hall, hpolicy⟩ := step_keeps_allOutcomes h
    have hheld : t.presented.all (·.held) = true := hpresented ▸ all_queue_of_all_presented h
    obtain ⟨t', hrun, hdone, hall', hpolicy'⟩ := ih hheld (by rw [hqueue, hq, List.tail_cons])
    exact ⟨t', (run_succ hstep _).trans hrun, hdone, hall'.trans hall, hpolicy'.trans hpolicy⟩

/-- Settles O32: the run keeps all outcomes, and in the end they are the ones delivered. -/
theorem runDeliversEveryOutcomeInOrder : Obligations.RunDeliversEveryOutcomeInOrder := by
  intro s h
  obtain ⟨t, hrun, hdone, hall, hpolicy⟩ := run_keeps_allOutcomes h
  obtain ⟨hv, hq⟩ := presented_eq_nil_iff.1 hdone
  exact ⟨t, hrun, (allOutcomes_of_presented_nil hdone).symm.trans hall, hv, hq, hpolicy⟩

/-! The reader's obligations. -/

theorem Transaction.lawful_iff {t : Transaction} :
    t.lawful = true ↔ 1 ≤ t.n.toNat ∧ t.n.toNat ≤ 32 ∧ t.held = true := by
  simp [Transaction.lawful, and_assoc]

/-- The hand-over keeps the reader's obligations: only queued transactions are left to be decoded. -/
theorem lawful_advance {s : State} (h : s.queue.all (·.lawful) = true) : s.advance.lawful = true := by
  rwa [State.lawful, presented_advance]

/-- Settles O37: DECODE gives `ShortFrame` and `LengthOutOfRange` for lengths outside the contract only, and the hand-over
keeps the obligations. -/
theorem lawfulReaderGetsContractOutcomes : Obligations.LawfulReaderGetsContractOutcomes := by
  intro s h
  have hqueue : s.queue.all (·.lawful) = true := all_queue_of_all_presented h
  cases hv : s.inValid with
  | false => exact ⟨_, step_idle hv, lawful_advance hqueue, nofun⟩
  | true =>
    rw [State.lawful, presented_valid hv, List.all_cons, Bool.and_eq_true, Transaction.lawful_iff] at h
    obtain ⟨⟨hlow, hhigh, hheld⟩, -⟩ := h
    rw [current_n] at hlow hhigh
    refine ⟨_, stepRefinesDecode s hv hheld, lawful_advance hqueue, fun _ => ⟨_, advance_delivered _, ?_, ?_⟩⟩
    · rw [Ne, decodeTransaction_eq_shortFrame_iff]
      omega
    · intro m hout
      have habove := (decodeTransaction_eq_lengthOutOfRange_iff.1 hout).2
      omega

/-! The all-zero buffer, and reset. -/

/-- Settles O22: wherever the tag lies it is 0x00, which selects ENV, and `PRESERVE` does not truncate. -/
theorem allZeroBufferIsAStaleEnvironmentFrame : Obligations.AllZeroBufferIsAStaleEnvironmentFrame := by
  intro n hlow hhigh
  have ho : (⟨n.toNat - 1, by omega⟩ : Fin 32).val + 1 = n.toNat := Nat.sub_add_cancel hlow
  rw [decodeTransaction_eq_instrRecord ho, truncates_preserve]
  rfl

/-- Settles O36: the step from reset is idle, and the hand-over finds no further transaction. -/
theorem resetIsIdle : Obligations.ResetIsIdle :=
  ⟨rfl, rfl, rfl, _, step_idle rfl, advance_delivered _, rfl⟩

end Sys2Proof.Machine
